-- ==== Sys2Proof/Word.lean ====
section
/-! DEFINITION. The word types of the C8VM core (spec 00_scope.md R4, R6; 10_state.md R10 to R16; 30_encoding.md R61). -/

namespace Sys2Proof

/-- An 8-bit value: a general register, a timer, a heap byte, the immediate nn. -/
abbrev Byte := BitVec 8

/-- A 16-bit value: I, PC, a stack entry, an instruction word. -/
abbrev Word := BitVec 16

/-- The 12-bit immediate nnn. -/
abbrev Addr12 := BitVec 12

/-- A 4-bit number 0..15: a register index (fields x, y), a key, the field n. -/
abbrev Nibble := Fin 16

end Sys2Proof
end

