-- ==== Sys2Proof/Syntax.lean ====
section
/-! DEFINITION. The instructions: one constructor per row of spec/opcode_table.json (30_encoding.md R66, R67). -/

namespace Sys2Proof

/-- An instruction, with the fields its format names (30_encoding.md R62). The forms whose rule ignores a field (5XYn, 9XYn and
the four fallback rows) still carry it, so that a word and its instruction determine each other (logs 21, 22). -/
inductive Instr where
  /-- 00E0 CLS (R135). -/
  | cls
  /-- 00EE RET (R81). -/
  | ret
  /-- 1NNN JP nnn (R82). -/
  | jp (nnn : Addr12)
  /-- 2NNN CALL nnn (R83). -/
  | call (nnn : Addr12)
  /-- 3XNN SE Vx, nn (R84). -/
  | seImm (x : Nibble) (nn : Byte)
  /-- 4XNN SNE Vx, nn (R85). -/
  | sneImm (x : Nibble) (nn : Byte)
  /-- 5XYn SE Vx, Vy; n is carried and ignored (R86, R68). -/
  | seReg (x y n : Nibble)
  /-- 6XNN LD Vx, nn (R100). -/
  | ldImm (x : Nibble) (nn : Byte)
  /-- 7XNN ADD Vx, nn (R101). -/
  | addImm (x : Nibble) (nn : Byte)
  /-- 8XY0 LD Vx, Vy (R102). -/
  | ldReg (x y : Nibble)
  /-- 8XY1 OR Vx, Vy (R103). -/
  | orReg (x y : Nibble)
  /-- 8XY2 AND Vx, Vy (R104). -/
  | andReg (x y : Nibble)
  /-- 8XY3 XOR Vx, Vy (R105). -/
  | xorReg (x y : Nibble)
  /-- 8XY4 ADD Vx, Vy (R106). -/
  | addReg (x y : Nibble)
  /-- 8XY5 SUB Vx, Vy (R107). -/
  | sub (x y : Nibble)
  /-- 8XY6 SHR Vx, Vy (R108). -/
  | shr (x y : Nibble)
  /-- 8XY7 SUBN Vx, Vy (R109). -/
  | subn (x y : Nibble)
  /-- 8XYE SHL Vx, Vy (R110). -/
  | shl (x y : Nibble)
  /-- 9XYn SNE Vx, Vy; n is carried and ignored (R87, R68). -/
  | sneReg (x y n : Nibble)
  /-- ANNN LD I, nnn (R120). -/
  | ldI (nnn : Addr12)
  /-- BNNN JP V0, nnn (R88). -/
  | jpOff (nnn : Addr12)
  /-- CXNN RND Vx, nn (R111). -/
  | rnd (x : Nibble) (nn : Byte)
  /-- DXYN DRW Vx, Vy, n (R136). -/
  | drw (x y n : Nibble)
  /-- EX9E SKP Vx (R145). -/
  | skp (x : Nibble)
  /-- EXA1 SKNP Vx (R146). -/
  | sknp (x : Nibble)
  /-- FX07 LD Vx, DT (R147). -/
  | ldVxDt (x : Nibble)
  /-- FX0A LD Vx, K (R148). -/
  | ldVxK (x : Nibble)
  /-- FX15 LD DT, Vx (R149). -/
  | ldDtVx (x : Nibble)
  /-- FX18 LD ST, Vx (R150). -/
  | ldStVx (x : Nibble)
  /-- FX1E ADD I, Vx (R121). -/
  | addI (x : Nibble)
  /-- FX29 LD F, Vx (R122). -/
  | ldF (x : Nibble)
  /-- FX33 LD B, Vx (R123). -/
  | ldB (x : Nibble)
  /-- FX55 LD [I], Vx (R124). -/
  | ldMemVx (x : Nibble)
  /-- FX65 LD Vx, [I] (R125). -/
  | ldVxMem (x : Nibble)
  /-- An unrecognised word with opcode 0x0 (R67, R80). -/
  | nop0 (nnn : Addr12)
  /-- An unrecognised word with opcode 0x8 (R67, R80). -/
  | nop8 (x y n : Nibble)
  /-- An unrecognised word with opcode 0xE (R67, R80). -/
  | nopE (x : Nibble) (nn : Byte)
  /-- An unrecognised word with opcode 0xF (R67, R80). -/
  | nopF (x : Nibble) (nn : Byte)
  deriving DecidableEq, Repr

end Sys2Proof
end

