-- ==== Sys2Proof/WellFormed.lean ====
section
/-! DEFINITION. Which terms of `Instr` a word can hold: the field widths are in the types, so the only checks are that a fallback
row does not carry a selector of a recognised instruction (spec 30_encoding.md R67). -/

namespace Sys2Proof

/-- The selectors of opcode 0xE that R66 assigns. -/
def selectorsE : List Byte := [0x9E, 0xA1]

/-- The selectors of opcode 0xF that R66 assigns. -/
def selectorsF : List Byte := [0x07, 0x0A, 0x15, 0x18, 0x1E, 0x29, 0x33, 0x55, 0x65]

/-- The selectors of opcode 0x8 that R66 assigns. -/
def selectors8 : List Nibble := [0, 1, 2, 3, 4, 5, 6, 7, 0xE]

/-- Whether some word decodes to this instruction. -/
def Instr.wellFormed : Instr → Bool
  | .nop0 nnn => nnn != 0x0E0 && nnn != 0x0EE
  | .nop8 _ _ n => !selectors8.contains n
  | .nopE _ nn => !selectorsE.contains nn
  | .nopF _ nn => !selectorsF.contains nn
  | .cls | .ret | .jp _ | .call _ | .seImm _ _ | .sneImm _ _ | .seReg _ _ _ => true
  | .ldImm _ _ | .addImm _ _ | .ldReg _ _ | .orReg _ _ | .andReg _ _ | .xorReg _ _ => true
  | .addReg _ _ | .sub _ _ | .shr _ _ | .subn _ _ | .shl _ _ | .sneReg _ _ _ => true
  | .ldI _ | .jpOff _ | .rnd _ _ | .drw _ _ _ | .skp _ | .sknp _ | .ldVxDt _ | .ldVxK _ => true
  | .ldDtVx _ | .ldStVx _ | .addI _ | .ldF _ | .ldB _ | .ldMemVx _ | .ldVxMem _ => true

end Sys2Proof
end

