-- ==== Sys2Proof/Decode.lean ====
section
/-! DEFINITION. The decoder (spec 30_encoding.md R60, R61, R65 to R68, R73), and after it the encoder, from the same tables. -/

namespace Sys2Proof

/-- The record `currentInstruction` of R61: six overlapping fields of a word. -/
structure Fields where
  opcode : Nibble
  x : Nibble
  y : Nibble
  n : Nibble
  nn : Byte
  nnn : Addr12
  deriving DecidableEq, Repr

/-- The fields of the word w, by the formulas of R61. -/
def fieldsOf (w : Word) : Fields where
  opcode := Fin.ofNat 16 (w.toNat / 4096)
  x := Fin.ofNat 16 (w.toNat / 256)
  y := Fin.ofNat 16 (w.toNat / 16)
  n := Fin.ofNat 16 w.toNat
  nn := BitVec.ofNat 8 w.toNat
  nnn := BitVec.ofNat 12 w.toNat

/-- Secondary selection of opcode 0x0, on the whole nnn (R65). -/
def select0 (f : Fields) : Instr :=
  if f.nnn = 0x0E0 then .cls
  else if f.nnn = 0x0EE then .ret
  else .nop0 f.nnn

/-- Secondary selection of opcode 0x8, on n (R65). -/
def select8 (f : Fields) : Instr :=
  if f.n.val = 0x0 then .ldReg f.x f.y
  else if f.n.val = 0x1 then .orReg f.x f.y
  else if f.n.val = 0x2 then .andReg f.x f.y
  else if f.n.val = 0x3 then .xorReg f.x f.y
  else if f.n.val = 0x4 then .addReg f.x f.y
  else if f.n.val = 0x5 then .sub f.x f.y
  else if f.n.val = 0x6 then .shr f.x f.y
  else if f.n.val = 0x7 then .subn f.x f.y
  else if f.n.val = 0xE then .shl f.x f.y
  else .nop8 f.x f.y f.n

/-- Secondary selection of opcode 0xE, on nn (R65). -/
def selectE (f : Fields) : Instr :=
  if f.nn = 0x9E then .skp f.x
  else if f.nn = 0xA1 then .sknp f.x
  else .nopE f.x f.nn

/-- Secondary selection of opcode 0xF, on nn (R65). -/
def selectF (f : Fields) : Instr :=
  if f.nn = 0x07 then .ldVxDt f.x
  else if f.nn = 0x0A then .ldVxK f.x
  else if f.nn = 0x15 then .ldDtVx f.x
  else if f.nn = 0x18 then .ldStVx f.x
  else if f.nn = 0x1E then .addI f.x
  else if f.nn = 0x29 then .ldF f.x
  else if f.nn = 0x33 then .ldB f.x
  else if f.nn = 0x55 then .ldMemVx f.x
  else if f.nn = 0x65 then .ldVxMem f.x
  else .nopF f.x f.nn

/-- Primary selection, on the opcode (R65, R66). -/
def select (f : Fields) : Instr :=
  if f.opcode.val = 0x0 then select0 f
  else if f.opcode.val = 0x1 then .jp f.nnn
  else if f.opcode.val = 0x2 then .call f.nnn
  else if f.opcode.val = 0x3 then .seImm f.x f.nn
  else if f.opcode.val = 0x4 then .sneImm f.x f.nn
  else if f.opcode.val = 0x5 then .seReg f.x f.y f.n
  else if f.opcode.val = 0x6 then .ldImm f.x f.nn
  else if f.opcode.val = 0x7 then .addImm f.x f.nn
  else if f.opcode.val = 0x8 then select8 f
  else if f.opcode.val = 0x9 then .sneReg f.x f.y f.n
  else if f.opcode.val = 0xA then .ldI f.nnn
  else if f.opcode.val = 0xB then .jpOff f.nnn
  else if f.opcode.val = 0xC then .rnd f.x f.nn
  else if f.opcode.val = 0xD then .drw f.x f.y f.n
  else if f.opcode.val = 0xE then selectE f
  else selectF f

/-- The instruction of a word: total, every word has one (R60, R73). -/
def decodeWord (w : Word) : Instr := select (fieldsOf w)

/-- The word whose high byte is hi and low byte lo (R41: the high byte lies at the lower address). -/
def wordOfBytes (hi lo : Byte) : Word := BitVec.ofNat 16 (hi.toNat * 256 + lo.toNat)

/-- Why bytes are no instruction: the only way is that fewer than two are left (R60, R70). -/
inductive DecodeError where
  /-- Fewer than the two bytes of an instruction. -/
  | truncated
  deriving DecidableEq, Repr

/-- The instruction at the head of a byte sequence and what follows it. -/
def decodeBytes : List Byte → Except DecodeError (Instr × List Byte)
  | hi :: lo :: rest => .ok (decodeWord (wordOfBytes hi lo), rest)
  | _ => .error .truncated

/-- The instruction this decoder reads from a table word: its 16 bits laid out high byte first; no row is longer. -/
def decodeTableWord (nbits w : Nat) : Option Instr :=
  if nbits ≤ 16 then
    match decodeBytes [BitVec.ofNat 8 (w % 2 ^ nbits / 256), BitVec.ofNat 8 (w % 2 ^ nbits)] with
    | .ok (i, _) => some i
    | .error _ => none
  else none

/-! ## The opcode table -/

/-- A row of R66's table: the words w with w &&& mask = pattern. -/
structure Row where
  mnemonic : String
  pattern : Word
  mask : Word
  deriving DecidableEq, Repr

/-- The 34 recognised instructions, by the keys of opcode_table.json (R66). -/
def opcodeRows : List Row :=
  [⟨"CLS", 0x00E0, 0xFFFF⟩, ⟨"RET", 0x00EE, 0xFFFF⟩, ⟨"JP", 0x1000, 0xF000⟩, ⟨"CALL", 0x2000, 0xF000⟩,
   ⟨"SE_IMM", 0x3000, 0xF000⟩, ⟨"SNE_IMM", 0x4000, 0xF000⟩, ⟨"SE_REG", 0x5000, 0xF000⟩] ++
  [⟨"LD_IMM", 0x6000, 0xF000⟩, ⟨"ADD_IMM", 0x7000, 0xF000⟩, ⟨"LD_REG", 0x8000, 0xF00F⟩, ⟨"OR", 0x8001, 0xF00F⟩,
   ⟨"AND", 0x8002, 0xF00F⟩, ⟨"XOR", 0x8003, 0xF00F⟩, ⟨"ADD_REG", 0x8004, 0xF00F⟩, ⟨"SUB", 0x8005, 0xF00F⟩] ++
  [⟨"SHR", 0x8006, 0xF00F⟩, ⟨"SUBN", 0x8007, 0xF00F⟩, ⟨"SHL", 0x800E, 0xF00F⟩, ⟨"SNE_REG", 0x9000, 0xF000⟩,
   ⟨"LD_I", 0xA000, 0xF000⟩, ⟨"JP_OFF", 0xB000, 0xF000⟩, ⟨"RND", 0xC000, 0xF000⟩, ⟨"DRW", 0xD000, 0xF000⟩] ++
  [⟨"SKP", 0xE09E, 0xF0FF⟩, ⟨"SKNP", 0xE0A1, 0xF0FF⟩, ⟨"LD_VX_DT", 0xF007, 0xF0FF⟩, ⟨"LD_VX_K", 0xF00A, 0xF0FF⟩,
   ⟨"LD_DT_VX", 0xF015, 0xF0FF⟩, ⟨"LD_ST_VX", 0xF018, 0xF0FF⟩, ⟨"ADD_I", 0xF01E, 0xF0FF⟩, ⟨"LD_F", 0xF029, 0xF0FF⟩] ++
  [⟨"LD_B", 0xF033, 0xF0FF⟩, ⟨"LD_MEM_VX", 0xF055, 0xF0FF⟩, ⟨"LD_VX_MEM", 0xF065, 0xF0FF⟩]

/-- The key of an instruction's row in opcode_table.json. -/
def Instr.mnemonic : Instr → String
  | .cls => "CLS"
  | .ret => "RET"
  | .jp _ => "JP"
  | .call _ => "CALL"
  | .seImm _ _ => "SE_IMM"
  | .sneImm _ _ => "SNE_IMM"
  | .seReg _ _ _ => "SE_REG"
  | .ldImm _ _ => "LD_IMM"
  | .addImm _ _ => "ADD_IMM"
  | .ldReg _ _ => "LD_REG"
  | .orReg _ _ => "OR"
  | .andReg _ _ => "AND"
  | .xorReg _ _ => "XOR"
  | .addReg _ _ => "ADD_REG"
  | .sub _ _ => "SUB"
  | .shr _ _ => "SHR"
  | .subn _ _ => "SUBN"
  | .shl _ _ => "SHL"
  | .sneReg _ _ _ => "SNE_REG"
  | .ldI _ => "LD_I"
  | .jpOff _ => "JP_OFF"
  | .rnd _ _ => "RND"
  | .drw _ _ _ => "DRW"
  | .skp _ => "SKP"
  | .sknp _ => "SKNP"
  | .ldVxDt _ => "LD_VX_DT"
  | .ldVxK _ => "LD_VX_K"
  | .ldDtVx _ => "LD_DT_VX"
  | .ldStVx _ => "LD_ST_VX"
  | .addI _ => "ADD_I"
  | .ldF _ => "LD_F"
  | .ldB _ => "LD_B"
  | .ldMemVx _ => "LD_MEM_VX"
  | .ldVxMem _ => "LD_VX_MEM"
  | .nop0 _ => "NOP_0"
  | .nop8 _ _ _ => "NOP_8"
  | .nopE _ _ => "NOP_E"
  | .nopF _ _ => "NOP_F"

/-- A word that matches no row of R66 (R67). -/
def Unrecognised (w : Word) : Prop := ∀ r ∈ opcodeRows, w &&& r.mask ≠ r.pattern

/-! ## The encoder -/

/-- A word of format F_NNN (R62). -/
def wordNNN (opcode : Nat) (nnn : Addr12) : Nat := opcode * 4096 + nnn.toNat

/-- A word of format F_XNN, or of F_X with nn the selector (R62). -/
def wordXNN (opcode : Nat) (x : Nibble) (nn : Byte) : Nat := opcode * 4096 + x.val * 256 + nn.toNat

/-- A word of format F_XYN, or of F_XY with n the selector or the ignored field (R62). -/
def wordXYN (opcode : Nat) (x y n : Nibble) : Nat := opcode * 4096 + x.val * 256 + y.val * 16 + n.val

/-- The number of an instruction's word (R66). -/
def encodeNat : Instr → Nat
  | .cls => 0x00E0
  | .ret => 0x00EE
  | .jp nnn => wordNNN 0x1 nnn
  | .call nnn => wordNNN 0x2 nnn
  | .seImm x nn => wordXNN 0x3 x nn
  | .sneImm x nn => wordXNN 0x4 x nn
  | .seReg x y n => wordXYN 0x5 x y n
  | .ldImm x nn => wordXNN 0x6 x nn
  | .addImm x nn => wordXNN 0x7 x nn
  | .ldReg x y => wordXYN 0x8 x y 0x0
  | .orReg x y => wordXYN 0x8 x y 0x1
  | .andReg x y => wordXYN 0x8 x y 0x2
  | .xorReg x y => wordXYN 0x8 x y 0x3
  | .addReg x y => wordXYN 0x8 x y 0x4
  | .sub x y => wordXYN 0x8 x y 0x5
  | .shr x y => wordXYN 0x8 x y 0x6
  | .subn x y => wordXYN 0x8 x y 0x7
  | .shl x y => wordXYN 0x8 x y 0xE
  | .sneReg x y n => wordXYN 0x9 x y n
  | .ldI nnn => wordNNN 0xA nnn
  | .jpOff nnn => wordNNN 0xB nnn
  | .rnd x nn => wordXNN 0xC x nn
  | .drw x y n => wordXYN 0xD x y n
  | .skp x => wordXNN 0xE x 0x9E
  | .sknp x => wordXNN 0xE x 0xA1
  | .ldVxDt x => wordXNN 0xF x 0x07
  | .ldVxK x => wordXNN 0xF x 0x0A
  | .ldDtVx x => wordXNN 0xF x 0x15
  | .ldStVx x => wordXNN 0xF x 0x18
  | .addI x => wordXNN 0xF x 0x1E
  | .ldF x => wordXNN 0xF x 0x29
  | .ldB x => wordXNN 0xF x 0x33
  | .ldMemVx x => wordXNN 0xF x 0x55
  | .ldVxMem x => wordXNN 0xF x 0x65
  | .nop0 nnn => wordNNN 0x0 nnn
  | .nop8 x y n => wordXYN 0x8 x y n
  | .nopE x nn => wordXNN 0xE x nn
  | .nopF x nn => wordXNN 0xF x nn

/-- The word of an instruction. -/
def encode (i : Instr) : Word := BitVec.ofNat 16 (encodeNat i)

/-- The two bytes of an instruction as they lie in the heap, high byte first (R41, R60). -/
def encodeBytes (i : Instr) : List Byte :=
  [BitVec.ofNat 8 (encodeNat i / 256), BitVec.ofNat 8 (encodeNat i)]

end Sys2Proof
end

