-- ==== Sys2Proof/Config.lean ====
section
/-! DEFINITION. What is fixed for the machine (spec 10_state.md R15) and the one free value, the random byte (60_exceptions.md R175). -/

namespace Sys2Proof.Config

/-- Bytes in the heap, addresses 0x000 to 0xFFF (R15). -/
def heapSize : Nat := 0x1000

/-- The random byte of the k-th execution of CXNN (R111, R175, D11): a FREE VALUE, with no body, so that nothing can be
proved of it and every claim holds for every sequence of bytes (log 4). -/
opaque rndByte : Nat → Byte

end Sys2Proof.Config
end

