-- ==== Sys2Proof/Machine/Layout.lean ====
section
/-! DEFINITION. The fixed places of a load and the font (spec 70_reset_and_hazards.md R187 to R189). -/

namespace Sys2Proof.Config

/-- Where a program is loaded, and where it starts (R187). -/
def loadBase : Nat := 0x200

/-- Where the font stands (R189). -/
def fontBase : Nat := 0x50

/-- The longest program image (R187, R188). -/
def maxImage : Nat := 3584

/-- The font, glyph by glyph (R189). UNVERIFIED: the spec takes the bytes from general knowledge (G2, D12); unsafe, log 15. -/
def font : List Byte :=
  [0xF0, 0x90, 0x90, 0x90, 0xF0] ++ [0x20, 0x60, 0x20, 0x20, 0x70] ++
  [0xF0, 0x10, 0xF0, 0x80, 0xF0] ++ [0xF0, 0x10, 0xF0, 0x10, 0xF0] ++
  [0x90, 0x90, 0xF0, 0x10, 0x10] ++ [0xF0, 0x80, 0xF0, 0x10, 0xF0] ++
  [0xF0, 0x80, 0xF0, 0x90, 0xF0] ++ [0xF0, 0x10, 0x20, 0x40, 0x40] ++
  [0xF0, 0x90, 0xF0, 0x90, 0xF0] ++ [0xF0, 0x90, 0xF0, 0x10, 0xF0] ++
  [0xF0, 0x90, 0xF0, 0x90, 0x90] ++ [0xE0, 0x90, 0xE0, 0x90, 0xE0] ++
  [0xF0, 0x80, 0x80, 0x80, 0xF0] ++ [0xE0, 0x90, 0x90, 0x90, 0xE0] ++
  [0xF0, 0x80, 0xF0, 0x80, 0xF0] ++ [0xF0, 0x80, 0xF0, 0x80, 0x80]

end Sys2Proof.Config
end

