-- ==== Sys2Proof/Machine/State.lean ====
section
/-! DEFINITION. The architectural state (spec 10_state.md R10 to R27), its reset value (70_reset_and_hazards.md R185, R186), and why an operation can stop. -/

namespace Sys2Proof.Machine

/-- The 64 by 32 one-bit framebuffer: 32 rows of 64 columns (R17; the storage is not observable, D26, log 28). -/
abbrev Framebuffer := Vector (Vector Bool 64) 32

/-- The heap as its cells: addresses strictly rising, no cell holding 0, which is what an unlisted address reads as (log 5). -/
abbrev Memory := List Host.Cell

/-- The quirk-mode selector quirkConfig (R21). -/
structure Quirks where
  /-- `useParameterisedShift`: the shifts act on V[x] in place. -/
  shift : Bool
  /-- `useParameterisedJump`: BNNN adds V[x]. -/
  jump : Bool
  /-- `useTemporaryIndex`: FX55 and FX65 leave I alone. -/
  tempIndex : Bool
  deriving DecidableEq, Repr

/-- The machine state: every row of R25's table, and the model's own draw counter. -/
structure State where
  /-- V[0..15]; VF is V[15] (R10, R11). -/
  v : Vector Byte 16
  /-- The index register I (R12). -/
  i : Word
  /-- The program counter (R13). -/
  pc : Word
  /-- The stack pointer, 0..16 (R14). -/
  sp : Fin 17
  /-- The call stack (R14). -/
  stack : Vector Word 16
  /-- The heap (R15). -/
  heap : Memory
  /-- The delay timer (R16). -/
  dt : Byte
  /-- The sound timer (R16). -/
  st : Byte
  /-- The framebuffer (R17). -/
  fb : Framebuffer
  /-- keysPressed (R18). -/
  keys : Vector Bool 16
  /-- The key-wait latch (R19). -/
  awaitingKeyRegister : Option Nibble
  /-- The wait this FX0A started is over (R20). -/
  keyWaitResolved : Bool
  /-- quirkConfig (R21). -/
  quirk : Quirks
  /-- The fault latch is set (R23, R161). -/
  faulted : Bool
  /-- The code of R162; meaningless while `faulted` is false. -/
  faultCause : BitVec 3
  /-- The value of R162; meaningless while `faulted` is false. -/
  faultInfo : Word
  /-- THE MODEL'S OWN: how many random bytes have been drawn (log 4). -/
  rndDraws : Nat
  deriving DecidableEq, Repr

/-- The reset state with the given quirk booleans: the state at creation (R185, R186). -/
def State.resetWith (q : Quirks) : State where
  v := Vector.replicate 16 0
  i := 0
  pc := 0
  sp := 0
  stack := Vector.replicate 16 0
  heap := []
  dt := 0
  st := 0
  fb := Vector.replicate 32 (Vector.replicate 64 false)
  keys := Vector.replicate 16 false
  awaitingKeyRegister := none
  keyWaitResolved := false
  quirk := q
  faulted := false
  faultCause := 0
  faultInfo := 0
  rndDraws := 0

/-- The machine right after reset. The spec gives the quirk booleans no default (R21, R25, D19): false is a DESIGN CHOICE, unsafe (log 3). -/
def State.reset : State := State.resetWith { shift := false, jump := false, tempIndex := false }

/-- The five faults of R162, each with what it records. A fault is REPORTED BY THE MACHINE, in its fault latch: `State.raise`
answers a next state (R161), and no step of this model ends in `Host.Outcome.fault` (log 1). Raising one where the reference
software would read or write beyond an array is safe: the run stops there (R165) and no claim rests on what would follow. -/
inductive Fault where
  /-- Raised by every step whose PC is above 0xFFE. Safe (log 11). -/
  | fetchOutOfRange (pc : Word)
  /-- Raised by 2NNN CALL with SP = 16. Safe (log 10). -/
  | stackOverflow
  /-- Raised by 00EE RET with SP = 0. Safe (log 10). -/
  | stackUnderflow
  /-- Raised by DXYN, FX33, FX55, FX65 whose highest address is above 0xFFF. Safe (log 12). -/
  | heapOutOfRange (addr : Nat)
  /-- Raised by EX9E, EXA1 with V[x] above 15. Safe (log 13). -/
  | keyIndexOutOfRange (k : Byte)
  deriving DecidableEq, Repr

/-- Why an operation has no meaning. Only the first is about instructions. -/
inductive Refusal where
  /-- An instruction whose meaning is not written yet; raised by an arm of `exec` alone. Safe. No arm raises it now. -/
  | notModelled (mnemonic : String)
  /-- Raised by `tick`, `keyEvent` and `load` on a faulted machine, to which the spec gives no meaning (R165, U13). Safe (log 24). -/
  | hostOperationAfterFault
  /-- Raised by `load` on a machine that is not in the reset state (R187, U11, D17). Safe (log 19). -/
  | loadOutsideResetState
  /-- Raised by `selectQuirks` on a machine that is not in the reset state (R197, U17). Safe (log 25). -/
  | quirkChangeOutsideResetState
  deriving DecidableEq, Repr

/-- The outcome of an operation of the machine. -/
abbrev Result := Host.Outcome State Fault Refusal

end Sys2Proof.Machine
end

