-- ==== Sys2Proof/Machine/Ops.lean ====
section
/-! DEFINITION. The named operations over the state: heap, registers, program counter, call stack, framebuffer, keys, the fault latch, fetching. -/

namespace Sys2Proof.Machine

/-! ## Field updates -/

/-- Replace the register file. -/
def State.setV (s : State) (v : Vector Byte 16) : State := { s with v := v }

/-- Write I. -/
def State.setI (s : State) (a : Word) : State := { s with i := a }

/-- Write PC. -/
def State.setPc (s : State) (a : Word) : State := { s with pc := a }

/-- Replace the call stack and its pointer. -/
def State.setCallStack (s : State) (sp : Fin 17) (stack : Vector Word 16) : State := { s with sp := sp, stack := stack }

/-- Replace the heap. -/
def State.setHeap (s : State) (m : Memory) : State := { s with heap := m }

/-- Write DT. -/
def State.setDt (s : State) (b : Byte) : State := { s with dt := b }

/-- Write ST. -/
def State.setSt (s : State) (b : Byte) : State := { s with st := b }

/-- Replace the framebuffer. -/
def State.setFb (s : State) (fb : Framebuffer) : State := { s with fb := fb }

/-- Replace the key bits. -/
def State.setKeys (s : State) (keys : Vector Bool 16) : State := { s with keys := keys }

/-- Write the key-wait latch and the resolved bit. -/
def State.setKeyWait (s : State) (r : Option Nibble) (resolved : Bool) : State :=
  { s with awaitingKeyRegister := r, keyWaitResolved := resolved }

/-- Write the fault latch. -/
def State.setLatch (s : State) (cause : BitVec 3) (info : Word) : State :=
  { s with faulted := true, faultCause := cause, faultInfo := info }

/-- Write the draw counter. -/
def State.setDraws (s : State) (k : Nat) : State := { s with rndDraws := k }

/-! ## Heap -/

/-- The byte at an address (R46); an unlisted address reads 0, the reset contents (R15). -/
def Memory.read : Memory → Nat → Byte
  | [], _ => 0
  | (k, b) :: m, a => if k = a then b else Memory.read m a

/-- Put a cell in front unless it holds what an unlisted address reads as. -/
def Memory.consCell (a : Nat) (b : Byte) (m : Memory) : Memory := if b = 0 then m else (a, b) :: m

/-- Write one byte (R46), keeping the canonical form. -/
def Memory.write : Memory → Nat → Byte → Memory
  | [], a, b => Memory.consCell a b []
  | (k, c) :: m, a, b =>
    if a < k then Memory.consCell a b ((k, c) :: m)
    else if a = k then Memory.consCell a b m
    else (k, c) :: Memory.write m a b

/-- Write bytes at ascending addresses (R42, R44). -/
def Memory.writeBytes : Memory → Nat → List Byte → Memory
  | m, _, [] => m
  | m, a, b :: bs => Memory.writeBytes (m.write a b) (a + 1) bs

/-- Addresses strictly rise from `low`, stay inside the heap, and no cell holds 0. -/
def Memory.wfFrom : Nat → Memory → Bool
  | _, [] => true
  | low, (k, b) :: m => decide (low ≤ k) && decide (k < Config.heapSize) && decide (b ≠ 0) && Memory.wfFrom (k + 1) m

/-- The canonical form (log 5). -/
def Memory.wf (m : Memory) : Bool := Memory.wfFrom 0 m

/-- MemRead(addr, 1), for an address the instruction has checked (R46). -/
def State.memRead (s : State) (a : Nat) : Byte := s.heap.read a

/-- MemWrite of a run of bytes, for addresses the instruction has checked (R46). -/
def State.memWrite (s : State) (a : Nat) (bs : List Byte) : State := s.setHeap (s.heap.writeBytes a bs)

/-! ## General registers -/

/-- V[r] (R10). -/
def State.readV (s : State) (r : Nibble) : Byte := s.v[r]

/-- V[r] <- b (R10); no register is hard-wired. -/
def State.writeV (s : State) (r : Nibble) (b : Byte) : State := s.setV (s.v.set r b)

/-! ## Program counter -/

/-- PC <- (PC + 2) mod 65536 (R13, R64). -/
def State.advance (s : State) : State := s.setPc (s.pc + 2)

/-- Add 2 more when the condition holds (40_flow.md section 3). -/
def State.skipIf (s : State) (c : Bool) : State := if c then s.advance else s

/-- PC <- (PC - 2) mod 65536 (R148). -/
def State.rewind (s : State) : State := s.setPc (s.pc - 2)

/-! ## Call stack -/

/-- Write PC at index SP, then add 1 to SP (R83); for SP below 16. -/
def State.pushPc (s : State) : State :=
  s.setCallStack (Fin.ofNat 17 (s.sp.val + 1)) (s.stack.set (Fin.ofNat 16 s.sp.val) s.pc)

/-- Subtract 1 from SP, read that entry into PC, write 0 to it (R81); for SP above 0. -/
def State.popPc (s : State) : State :=
  let slot := Fin.ofNat 16 (s.sp.val - 1)
  (s.setCallStack (Fin.ofNat 17 (s.sp.val - 1)) (s.stack.set slot 0)).setPc s.stack[slot]

/-! ## Framebuffer -/

/-- The cell at column cx and row cy (R17); also the host's read port (R137). -/
def Framebuffer.cell (fb : Framebuffer) (cx : Fin 64) (cy : Fin 32) : Bool := fb[cy][cx]

/-- The framebuffer with that cell toggled (R136). -/
def Framebuffer.toggle (fb : Framebuffer) (cx : Fin 64) (cy : Fin 32) : Framebuffer :=
  fb.set cy (fb[cy].set cx (!fb[cy][cx]))

/-- All cells 0 (R135). -/
def Framebuffer.blank : Framebuffer := Vector.replicate 32 (Vector.replicate 64 false)

/-! ## Keys -/

/-- keys[k] (R18). -/
def State.keyDown (s : State) (k : Nibble) : Bool := s.keys[k]

/-- keys[k] <- b (R18, R173). -/
def State.setKey (s : State) (k : Nibble) (b : Bool) : State := s.setKeys (s.keys.set k b)

/-! ## The random input -/

/-- The next random byte (R175): a free value. -/
def State.rndByte (s : State) : Byte := Config.rndByte s.rndDraws

/-- The state after that byte has been drawn. -/
def State.drawn (s : State) : State := s.setDraws (s.rndDraws + 1)

/-! ## Faults: the one operation by which the machine takes one -/

/-- The code of a fault (R162). -/
def Fault.code : Fault → BitVec 3
  | .fetchOutOfRange _ => 1
  | .stackOverflow => 2
  | .stackUnderflow => 3
  | .heapOutOfRange _ => 4
  | .keyIndexOutOfRange _ => 5

/-- The value a fault records (R162). -/
def Fault.info : Fault → Word
  | .fetchOutOfRange pc => pc
  | .stackOverflow => 16
  | .stackUnderflow => 0
  | .heapOutOfRange a => BitVec.ofNat 16 a
  | .keyIndexOutOfRange k => k.setWidth 16

/-- Raise a fault (R161): set the latch and change nothing else. The state given is the one before the step, so PC keeps the
address of the faulting instruction. There is no return from a fault but reset (R165, R169). -/
def State.raise (s : State) (f : Fault) : State := s.setLatch f.code f.info

/-- What an instruction answers: the fault it must raise, on the state before it, or else the state after it. -/
def guarded (f : Option Fault) (before after : State) : Result :=
  .next (match f with
    | some f => before.raise f
    | none => after)

/-! ## Fetching -/

/-- The fault of the fetch (R46, R162): the second byte would lie above the heap. -/
def fetchFault (pc : Word) : Option Fault :=
  if pc.toNat + 1 < Config.heapSize then none else some (.fetchOutOfRange pc)

/-- The two bytes at PC, low address first (R41). -/
def State.fetchBytes (s : State) : List Byte := [s.memRead s.pc.toNat, s.memRead (s.pc.toNat + 1)]

/-- MemRead(PC, 2): the instruction word at PC, big-endian (R41). -/
def State.fetchWord (s : State) : Word := wordOfBytes (s.memRead s.pc.toNat) (s.memRead (s.pc.toNat + 1))

/-- Lay a table word where the next step fetches: its bytes at PC, high byte first. A PC that cannot be fetched is moved to the
load address, and a set latch is cleared, since either would keep the step from fetching (log 26). -/
def State.placeWord (s : State) (nbits w : Nat) : State :=
  let pc := match fetchFault s.pc with
    | none => s.pc
    | some _ => BitVec.ofNat 16 Config.loadBase
  { s with faulted := false }.setPc pc
    |>.memWrite pc.toNat [BitVec.ofNat 8 (w % 2 ^ nbits / 256), BitVec.ofNat 8 (w % 2 ^ nbits)]

end Sys2Proof.Machine
end

