-- ==== Sys2Proof/Machine/Flags.lean ====
section
/-! DEFINITION. The flag register VF (spec 10_state.md R11) and every flag computation (41_alu.md R106 to R110, R112, R113; 43_display.md R136). -/

namespace Sys2Proof.Machine

/-- VF is V[15] (R11). -/
def vf : Nibble := 15

/-- A flag fills the whole byte, with 0 or 1 (R11). -/
def flagByte (c : Bool) : Byte := if c then 1 else 0

/-- The carry of ADD: the sum exceeds 255 (R106). -/
def carryOut (a b : Byte) : Bool := decide (a.toNat + b.toNat > 255)

/-- The flag of SUB and SUBN: no borrow, the minuend is at least the subtrahend (R107, R109). -/
def notBorrow (minuend subtrahend : Byte) : Bool := decide (minuend.toNat ≥ subtrahend.toNat)

/-- The bit SHR shifts out (R108). -/
def lowBitOut (t : Byte) : Bool := t.getLsbD 0

/-- The bit SHL shifts out (R110). -/
def highBitOut (t : Byte) : Bool := t.getLsbD 7

/-- Write VF as a flag. -/
def State.setFlag (s : State) (c : Bool) : State := s.writeV vf (flagByte c)

/-- Write a result and then the flag, in that order (R112, log 8). -/
def State.writeVFlag (s : State) (x : Nibble) (b : Byte) (c : Bool) : State := (s.writeV x b).setFlag c

end Sys2Proof.Machine
end

