-- ==== Sys2Proof/Machine/Operands.lean ====
section
/-! DEFINITION. Operand forms (spec 30_encoding.md R63; 42_index_memory.md; 41_alu.md R108; 40_flow.md R88; 43_display.md R136): immediates, quirk-chosen operands, bytes through I, key numbers, sprite pixels, and the faults they can cause. -/

namespace Sys2Proof.Machine

/-- nnn zero-extended to 16 bits (R63). -/
def immAddr (nnn : Addr12) : Word := nnn.setWidth 16

/-- The operand of 8XY6 and 8XYE: V[x] or V[y] by quirk.shift (R108, R110). -/
def State.shiftOperand (s : State) (x y : Nibble) : Byte := if s.quirk.shift then s.readV x else s.readV y

/-- The field x of a word of format F_NNN: bits 11 to 8, the top nibble of nnn (R62, R88). -/
def regOfNnn (nnn : Addr12) : Nibble := Fin.ofNat 16 (nnn.toNat / 256)

/-- The register BNNN adds: V[x] or V[0] by quirk.jump (R88). -/
def State.jumpOffset (s : State) (nnn : Addr12) : Byte :=
  if s.quirk.jump then s.readV (regOfNnn nnn) else s.readV 0

/-- The fault of an access to `count` bytes from I on: the highest address is above 0xFFF, computed as an unbounded integer (R46). -/
def indexFault (i : Word) (count : Nat) : Option Fault :=
  if count = 0 ∨ i.toNat + count ≤ Config.heapSize then none else some (.heapOutOfRange (i.toNat + count - 1))

/-- The `count` bytes from address a on, ascending (R42). -/
def Memory.readBytes (m : Memory) (a count : Nat) : List Byte := (List.range count).map fun k => m.read (a + k)

/-- V[0] to V[x], in order: what FX55 stores (R124). -/
def State.regsUpTo (s : State) (x : Nibble) : List Byte := s.v.toList.take (x.val + 1)

/-- V[0] to V[x] loaded from the heap at address a on, the rest kept (R125). -/
def State.loadRegs (s : State) (a : Nat) (x : Nibble) : State :=
  s.setV (Vector.ofFn fun r => if r.val ≤ x.val then s.memRead (a + r.val) else s.v[r])

/-- I after FX55 or FX65: moved past the block unless quirk.tempIndex (R124, R125). -/
def State.bumpIndex (s : State) (x : Nibble) : State :=
  if s.quirk.tempIndex then s else s.setI (s.i + BitVec.ofNat 16 (x.val + 1))

/-- Hundreds, tens and units of a byte (R123). -/
def bcdDigits (b : Byte) : List Byte :=
  [BitVec.ofNat 8 (b.toNat / 100), BitVec.ofNat 8 (b.toNat / 10 % 10), BitVec.ofNat 8 (b.toNat % 10)]

/-- The address of the glyph numbered b, the whole byte unmasked (R122). -/
def glyphAddr (b : Byte) : Word := BitVec.ofNat 16 (Config.fontBase + 5 * b.toNat)

/-- The fault of using b as a key number (R145, R146). -/
def keyFault (b : Byte) : Option Fault := if b.toNat ≤ 15 then none else some (.keyIndexOutOfRange b)

/-- The key a byte names; for a byte of at most 15 (R145). -/
def keyOfByte (b : Byte) : Nibble := Fin.ofNat 16 b.toNat

/-- The fault of CALL (R83). -/
def pushFault (sp : Fin 17) : Option Fault := if sp.val = 16 then some .stackOverflow else none

/-- The fault of RET (R81). -/
def popFault (sp : Fin 17) : Option Fault := if sp.val = 0 then some .stackUnderflow else none

/-! ## Sprites -/

/-- Whether pixel `col` of a sprite row is lit: bit 7 is the leftmost (R136). -/
def spritePixel (b : Byte) (col : Nat) : Bool := b.getLsbD (7 - col)

/-- The column `col` pixels right of vx, wrapping (R136). -/
def column (vx : Byte) (col : Nat) : Fin 64 := Fin.ofNat 64 (vx.toNat + col)

/-- The row `row` pixels below vy, wrapping (R136). -/
def line (vy : Byte) (row : Nat) : Fin 32 := Fin.ofNat 32 (vy.toNat + row)

/-- What a draw is building: the collision so far and the framebuffer so far. -/
structure Canvas where
  collision : Bool
  fb : Framebuffer
  deriving DecidableEq, Repr

/-- Plot one pixel of sprite row b (R136). -/
def Canvas.plot (vx vy : Byte) (row : Nat) (b : Byte) (c : Canvas) (col : Nat) : Canvas :=
  if spritePixel b col then
    { collision := c.collision || c.fb.cell (column vx col) (line vy row)
      fb := c.fb.toggle (column vx col) (line vy row) }
  else c

/-- Plot the eight pixels of sprite row b (R136). -/
def Canvas.plotRow (vx vy : Byte) (row : Nat) (b : Byte) (c : Canvas) : Canvas :=
  (List.range 8).foldl (Canvas.plot vx vy row b) c

/-- Plot sprite rows from row number `row` on (R136). -/
def Canvas.plotRows (vx vy : Byte) : Nat → List Byte → Canvas → Canvas
  | _, [], c => c
  | row, b :: bs, c => Canvas.plotRows vx vy (row + 1) bs (c.plotRow vx vy row b)

end Sys2Proof.Machine
end

