-- ==== Sys2Proof/Machine/Alu.lean ====
section
/-! DEFINITION. Register load, 8-bit ALU and random instructions (spec 41_alu.md R100 to R113). -/

namespace Sys2Proof.Machine

/-- LD Vx, nn (R100). -/
def execLdImm (x : Nibble) (nn : Byte) (s : State) : Result := .next (s.advance.writeV x nn)

/-- ADD Vx, nn, without a flag (R101). -/
def execAddImm (x : Nibble) (nn : Byte) (s : State) : Result := .next (s.advance.writeV x (s.readV x + nn))

/-- LD Vx, Vy (R102). -/
def execLdReg (x y : Nibble) (s : State) : Result := .next (s.advance.writeV x (s.readV y))

/-- OR Vx, Vy, VF untouched (R103). -/
def execOrReg (x y : Nibble) (s : State) : Result := .next (s.advance.writeV x (s.readV x ||| s.readV y))

/-- AND Vx, Vy, VF untouched (R104). -/
def execAndReg (x y : Nibble) (s : State) : Result := .next (s.advance.writeV x (s.readV x &&& s.readV y))

/-- XOR Vx, Vy, VF untouched (R105). -/
def execXorReg (x y : Nibble) (s : State) : Result := .next (s.advance.writeV x (s.readV x ^^^ s.readV y))

/-- ADD Vx, Vy with carry out (R106). -/
def execAddReg (x y : Nibble) (s : State) : Result :=
  .next (s.advance.writeVFlag x (s.readV x + s.readV y) (carryOut (s.readV x) (s.readV y)))

/-- SUB Vx, Vy (R107). -/
def execSub (x y : Nibble) (s : State) : Result :=
  .next (s.advance.writeVFlag x (s.readV x - s.readV y) (notBorrow (s.readV x) (s.readV y)))

/-- SUBN Vx, Vy (R109). -/
def execSubn (x y : Nibble) (s : State) : Result :=
  .next (s.advance.writeVFlag x (s.readV y - s.readV x) (notBorrow (s.readV y) (s.readV x)))

/-- SHR Vx, Vy (R108). -/
def execShr (x y : Nibble) (s : State) : Result :=
  .next (s.advance.writeVFlag x (s.shiftOperand x y >>> 1) (lowBitOut (s.shiftOperand x y)))

/-- SHL Vx, Vy (R110). -/
def execShl (x y : Nibble) (s : State) : Result :=
  .next (s.advance.writeVFlag x (s.shiftOperand x y <<< 1) (highBitOut (s.shiftOperand x y)))

/-- The effect of CXNN when the random byte is r (R111). -/
def State.maskRandom (s : State) (r : Byte) (x : Nibble) (nn : Byte) : State := s.writeV x (r &&& nn)

/-- RND Vx, nn (R111): the byte is a free value, fresh at each execution (log 4). -/
def execRnd (x : Nibble) (nn : Byte) (s : State) : Result :=
  .next (s.advance.drawn.maskRandom s.rndByte x nn)

end Sys2Proof.Machine
end

