-- ==== Sys2Proof/Machine/Display.lean ====
section
/-! DEFINITION. Display instructions (spec 43_display.md R135, R136). -/

namespace Sys2Proof.Machine

/-- CLS (R135). -/
def execCls (s : State) : Result := .next (s.advance.setFb Framebuffer.blank)

/-- What DXYN builds: n rows from I, plotted at (V[x], V[y]), both sampled before VF is written (R136). -/
def State.drawnCanvas (s : State) (x y n : Nibble) : Canvas :=
  Canvas.plotRows (s.readV x) (s.readV y) 0 (s.heap.readBytes s.i.toNat n.val) { collision := false, fb := s.fb }

/-- DRW Vx, Vy, n (R136): VF is written last and always. -/
def execDrw (x y n : Nibble) (s : State) : Result :=
  guarded (indexFault s.i n.val) s
    ((s.advance.setFb (s.drawnCanvas x y n).fb).setFlag (s.drawnCanvas x y n).collision)

end Sys2Proof.Machine
end

