-- ==== Sys2Proof/Machine/Flow.lean ====
section
/-! DEFINITION. The no-op class, control transfer and skips (spec 40_flow.md R80 to R88). Every meaning takes the state whose PC is
the instruction's own address and includes the advance of R64 (log 2). -/

namespace Sys2Proof.Machine

/-- Unrecognised, opcode 0x0 (R80). -/
def execNop0 (_nnn : Addr12) (s : State) : Result := .next s.advance

/-- Unrecognised, opcode 0x8 (R80). -/
def execNop8 (_x _y _n : Nibble) (s : State) : Result := .next s.advance

/-- Unrecognised, opcode 0xE (R80). -/
def execNopE (_x : Nibble) (_nn : Byte) (s : State) : Result := .next s.advance

/-- Unrecognised, opcode 0xF (R80). -/
def execNopF (_x : Nibble) (_nn : Byte) (s : State) : Result := .next s.advance

/-- RET (R81). -/
def execRet (s : State) : Result := guarded (popFault s.sp) s s.advance.popPc

/-- JP nnn (R82). -/
def execJp (nnn : Addr12) (s : State) : Result := .next (s.advance.setPc (immAddr nnn))

/-- CALL nnn (R83): the pushed value is the advanced PC. -/
def execCall (nnn : Addr12) (s : State) : Result :=
  guarded (pushFault s.sp) s (s.advance.pushPc.setPc (immAddr nnn))

/-- SE Vx, nn (R84). -/
def execSeImm (x : Nibble) (nn : Byte) (s : State) : Result :=
  .next (s.advance.skipIf (decide (s.readV x = nn)))

/-- SNE Vx, nn (R85). -/
def execSneImm (x : Nibble) (nn : Byte) (s : State) : Result :=
  .next (s.advance.skipIf (decide (s.readV x ≠ nn)))

/-- SE Vx, Vy, whatever n (R86, R68). -/
def execSeReg (x y _n : Nibble) (s : State) : Result :=
  .next (s.advance.skipIf (decide (s.readV x = s.readV y)))

/-- SNE Vx, Vy, whatever n (R87, R68). -/
def execSneReg (x y _n : Nibble) (s : State) : Result :=
  .next (s.advance.skipIf (decide (s.readV x ≠ s.readV y)))

/-- JP V0, nnn (R88). -/
def execJpOff (nnn : Addr12) (s : State) : Result :=
  .next (s.advance.setPc (immAddr nnn + (s.jumpOffset nnn).setWidth 16))

end Sys2Proof.Machine
end

