-- ==== Sys2Proof/Machine/IndexMemory.lean ====
section
/-! DEFINITION. Index register, loads and stores (spec 42_index_memory.md R120 to R125). -/

namespace Sys2Proof.Machine

/-- LD I, nnn (R120). -/
def execLdI (nnn : Addr12) (s : State) : Result := .next (s.advance.setI (immAddr nnn))

/-- ADD I, Vx, modulo 65536, without a flag (R121). -/
def execAddI (x : Nibble) (s : State) : Result := .next (s.advance.setI (s.i + (s.readV x).setWidth 16))

/-- LD F, Vx (R122). -/
def execLdF (x : Nibble) (s : State) : Result := .next (s.advance.setI (glyphAddr (s.readV x)))

/-- LD B, Vx (R123). -/
def execLdB (x : Nibble) (s : State) : Result :=
  guarded (indexFault s.i 3) s (s.advance.memWrite s.i.toNat (bcdDigits (s.readV x)))

/-- LD [I], Vx (R124). -/
def execLdMemVx (x : Nibble) (s : State) : Result :=
  guarded (indexFault s.i (x.val + 1)) s ((s.advance.memWrite s.i.toNat (s.regsUpTo x)).bumpIndex x)

/-- LD Vx, [I] (R125). -/
def execLdVxMem (x : Nibble) (s : State) : Result :=
  guarded (indexFault s.i (x.val + 1)) s ((s.advance.loadRegs s.i.toNat x).bumpIndex x)

end Sys2Proof.Machine
end

