-- ==== Sys2Proof/Machine/KeysTimers.lean ====
section
/-! DEFINITION. Key and timer instructions (spec 44_keys_timers.md R145 to R150). -/

namespace Sys2Proof.Machine

/-- SKP Vx (R145). -/
def execSkp (x : Nibble) (s : State) : Result :=
  guarded (keyFault (s.readV x)) s (s.advance.skipIf (s.keyDown (keyOfByte (s.readV x))))

/-- SKNP Vx (R146). -/
def execSknp (x : Nibble) (s : State) : Result :=
  guarded (keyFault (s.readV x)) s (s.advance.skipIf (!s.keyDown (keyOfByte (s.readV x))))

/-- LD Vx, DT (R147). -/
def execLdVxDt (x : Nibble) (s : State) : Result := .next (s.advance.writeV x s.dt)

/-- LD Vx, K (R148): after a resolved wait go on, else enter or stay in the wait and come back to this instruction. -/
def execLdVxK (x : Nibble) (s : State) : Result :=
  .next (if s.keyWaitResolved then s.advance.setKeyWait s.awaitingKeyRegister false
    else (s.advance.setKeyWait (some x) s.keyWaitResolved).rewind)

/-- LD DT, Vx (R149). -/
def execLdDtVx (x : Nibble) (s : State) : Result := .next (s.advance.setDt (s.readV x))

/-- LD ST, Vx (R150). -/
def execLdStVx (x : Nibble) (s : State) : Result := .next (s.advance.setSt (s.readV x))

end Sys2Proof.Machine
end

