-- ==== Sys2Proof/Machine/Cycle.lean ====
section
/-! DEFINITION. The fetch-decode-execute cycle (spec 30_encoding.md R64; order of checks 60_exceptions.md R164). -/

namespace Sys2Proof.Machine

/-- Fetch, decode and execute at PC, on a machine whose latch is clear. -/
def fetchExecute (s : State) : Result :=
  match fetchFault s.pc with
  | some f => .next (s.raise f)
  | none => exec (decodeWord s.fetchWord) s

/-- One cycle: a faulted machine does nothing (R165). -/
def cycle (s : State) : Result := if s.faulted then .next s else fetchExecute s

end Sys2Proof.Machine
end

