-- ==== Sys2Proof/Machine/Step.lean ====
section
/-! DEFINITION. The step of the machine, and where it fetches (spec 30_encoding.md R64). -/

namespace Sys2Proof.Machine

/-- The operation `step` of R5: one cycle. -/
def step (s : State) : Host.Outcome State Fault Refusal := cycle s

/-- The state with a table word stored where step fetches its next instruction (log 26). -/
def State.withFetchWord (s : State) (nbits w : Nat) : State := s.placeWord nbits w

end Sys2Proof.Machine
end

