-- ==== Sys2Proof/Machine/HostOps.lean ====
section
/-! DEFINITION. The host's operations beside step (spec 00_scope.md R5; 60_exceptions.md R171 to R174; 70_reset_and_hazards.md R185 to R190), and runs that interleave all five (log 23). -/

namespace Sys2Proof.Machine

/-- `reset` (R185): every field zero but quirkConfig. The draw counter is not rewound, so that bytes drawn after a reset are
not those drawn before it (R175, log 4). -/
def hostReset (s : State) : State := (State.resetWith s.quirk).setDraws s.rndDraws

/-- The machine is in the reset state (R187). -/
def inResetState (s : State) : Bool := decide (s = hostReset s)

/-- One timer's countdown: max(t - 1, 0) (R171). -/
def countDown (t : Byte) : Byte := if t = 0 then 0 else t - 1

/-- `tickTimers` (R171); refused on a faulted machine (R165, log 24). -/
def tick (s : State) : Result :=
  if s.faulted then .refused .hostOperationAfterFault
  else .next ((s.setDt (countDown s.dt)).setSt (countDown s.st))

/-- What a key event changes (R173). -/
def State.keyEventEffect (s : State) (k : Nibble) (pressed : Bool) : State :=
  if pressed then
    match s.awaitingKeyRegister with
    | some r => (s.writeV r (BitVec.ofNat 8 k.val)).setKeyWait none true
    | none => s.setKey k true
  else s.setKey k false

/-- `notifyKey` (R173); refused on a faulted machine (R165, log 24). -/
def keyEvent (k : Nibble) (pressed : Bool) (s : State) : Result :=
  if s.faulted then .refused .hostOperationAfterFault
  else .next (s.keyEventEffect k pressed)

/-- The result of a load, as surfaced to the host (R188). -/
inductive LoadReport where
  /-- The image was written. -/
  | loaded
  /-- The image is longer than 3584 bytes; nothing was written. -/
  | sizeLimitExceeded
  deriving DecidableEq, Repr

/-- What a load of this image reports (R187, R188). -/
def loadReport (image : List Byte) : LoadReport :=
  if image.length ≤ Config.maxImage then .loaded else .sizeLimitExceeded

/-- The image at 0x200, the font at 0x50, PC at 0x200 (R187, R189). -/
def State.install (s : State) (image : List Byte) : State :=
  ((s.memWrite Config.loadBase image).memWrite Config.fontBase Config.font).setPc (BitVec.ofNat 16 Config.loadBase)

/-- `loadProgram` (R187, R188): defined on the reset state only; a too long image changes nothing. -/
def load (image : List Byte) (s : State) : Result :=
  if s.faulted then .refused .hostOperationAfterFault
  else if !inResetState s then .refused .loadOutsideResetState
  else match loadReport image with
    | .loaded => .next (s.install image)
    | .sizeLimitExceeded => .next s

/-- The host sets the quirk booleans before a run (R180, R190); refused outside the reset state (R197, log 25). -/
def selectQuirks (q : Quirks) (s : State) : Result :=
  if inResetState s then .next { s with quirk := q } else .refused .quirkChangeOutsideResetState

/-- The boot sequence (R190): set the quirk booleans, reset, load. -/
def boot (q : Quirks) (image : List Byte) (s : State) : Result := load image (hostReset { s with quirk := q })

/-- The host's sound gate (R172). -/
def soundActive (s : State) : Bool := decide (s.st ≠ 0)

/-- The five operations (R5). -/
inductive HostOp where
  | step
  | tick
  | keyEvent (k : Nibble) (pressed : Bool)
  | load (image : List Byte)
  | reset
  deriving DecidableEq, Repr

/-- Perform one operation (R5). -/
def perform : HostOp → State → Result
  | .step, s => Sys2Proof.Machine.step s
  | .tick, s => Sys2Proof.Machine.tick s
  | .keyEvent k pressed, s => Sys2Proof.Machine.keyEvent k pressed s
  | .load image, s => Sys2Proof.Machine.load image s
  | .reset, s => .next (hostReset s)

/-- Perform operations in the host's order, stopping at the first that has no meaning (R5, R164). -/
def performAll : List HostOp → State → Result
  | [], s => .next s
  | op :: ops, s =>
    match perform op s with
    | .next t => performAll ops t
    | .fault f => .fault f
    | .refused r => .refused r

end Sys2Proof.Machine
end

