-- ==== Sys2Proof/Safety.lean ====
section
/-! DEFINITION. The terms claims use: which part of the state an operation leaves alone, what a recorded fault is, the machine's
invariants, and when a run is over (spec 10_state.md R14, R20, R25; 60_exceptions.md R161, R162; 70_reset_and_hazards.md R199). -/

namespace Sys2Proof

open Sys2Proof.Machine

/-- A word of the opcode table decodes to the instruction. -/
def Decodes (w : Nat) (i : Instr) : Prop := decodeTableWord 16 w = some i

/-! ## Frames -/

/-- The parts of the state (the rows of R25's table; the timers apart, the latch and the key-wait each as one). -/
inductive Part where
  | regs | index | pc | callStack | heap | delayTimer | soundTimer | framebuffer | keys | keyWait | quirk | latch | draws
  deriving DecidableEq, Repr

/-- The part reads the same in both states. -/
def Part.same : Part → State → State → Prop
  | .regs, s, t => ∀ r, t.readV r = s.readV r
  | .index, s, t => t.i = s.i
  | .pc, s, t => t.pc = s.pc
  | .callStack, s, t => t.sp = s.sp ∧ ∀ k : Nibble, t.stack[k] = s.stack[k]
  | .heap, s, t => ∀ a, t.memRead a = s.memRead a
  | .delayTimer, s, t => t.dt = s.dt
  | .soundTimer, s, t => t.st = s.st
  | .framebuffer, s, t => ∀ cx cy, t.fb.cell cx cy = s.fb.cell cx cy
  | .keys, s, t => ∀ k, t.keyDown k = s.keyDown k
  | .keyWait, s, t => t.awaitingKeyRegister = s.awaitingKeyRegister ∧ t.keyWaitResolved = s.keyWaitResolved
  | .quirk, s, t => t.quirk = s.quirk
  | .latch, s, t => t.faulted = s.faulted ∧ t.faultCause = s.faultCause ∧ t.faultInfo = s.faultInfo
  | .draws, s, t => t.rndDraws = s.rndDraws

/-- Every part but those listed reads the same. -/
def SameExcept (ps : List Part) (s t : State) : Prop := ∀ p, p ∉ ps → p.same s t

/-- Every general register but those listed reads the same. -/
def RegsSameExcept (rs : List Nibble) (s t : State) : Prop := ∀ r, r ∉ rs → t.readV r = s.readV r

/-- Every byte outside the `count` bytes from a on reads the same. -/
def HeapSameOutside (a count : Nat) (s t : State) : Prop :=
  ∀ b, (b < a ∨ a + count ≤ b) → t.memRead b = s.memRead b

/-- t is s with a fault recorded and nothing else changed (R161). -/
def Latched (cause : BitVec 3) (info : Word) (s t : State) : Prop :=
  t.faulted = true ∧ t.faultCause = cause ∧ t.faultInfo = info ∧ SameExcept [.latch] s t

/-- The parts an instruction may write, the latch among them where it can fault (R25's column "written by", R162). -/
def Instr.parts : Instr → List Part
  | .cls => [.pc, .framebuffer]
  | .ret => [.pc, .callStack, .latch]
  | .call _ => [.pc, .callStack, .latch]
  | .jp _ | .jpOff _ | .seImm _ _ | .sneImm _ _ | .seReg _ _ _ | .sneReg _ _ _ => [.pc]
  | .ldImm _ _ | .addImm _ _ | .ldReg _ _ | .orReg _ _ | .andReg _ _ | .xorReg _ _ => [.pc, .regs]
  | .addReg _ _ | .sub _ _ | .shr _ _ | .subn _ _ | .shl _ _ | .ldVxDt _ => [.pc, .regs]
  | .rnd _ _ => [.pc, .regs, .draws]
  | .drw _ _ _ => [.pc, .regs, .framebuffer, .latch]
  | .skp _ | .sknp _ => [.pc, .latch]
  | .ldVxK _ => [.pc, .keyWait]
  | .ldDtVx _ => [.pc, .delayTimer]
  | .ldStVx _ => [.pc, .soundTimer]
  | .ldI _ | .addI _ | .ldF _ => [.pc, .index]
  | .ldB _ => [.pc, .heap, .latch]
  | .ldMemVx _ => [.pc, .heap, .index, .latch]
  | .ldVxMem _ => [.pc, .regs, .index, .latch]
  | .nop0 _ | .nop8 _ _ _ | .nopE _ _ | .nopF _ _ => [.pc]

/-- V[0] to V[x]. -/
def regsThrough (x : Nibble) : List Nibble := (List.finRange 16).filter fun r => decide (r.val ≤ x.val)

/-- The general registers an instruction may write (R10, R11). -/
def Instr.destRegs : Instr → List Nibble
  | .ldImm x _ | .addImm x _ | .ldReg x _ | .orReg x _ | .andReg x _ | .xorReg x _ | .rnd x _ | .ldVxDt x => [x]
  | .addReg x _ | .sub x _ | .shr x _ | .subn x _ | .shl x _ => [x, 15]
  | .drw _ _ _ => [15]
  | .ldVxMem x => regsThrough x
  | .cls | .ret | .call _ | .jp _ | .jpOff _ | .seImm _ _ | .sneImm _ _ | .seReg _ _ _ | .sneReg _ _ _ => []
  | .skp _ | .sknp _ | .ldVxK _ | .ldDtVx _ | .ldStVx _ | .ldI _ | .addI _ | .ldF _ | .ldB _ | .ldMemVx _ => []
  | .nop0 _ | .nop8 _ _ _ | .nopE _ _ | .nopF _ _ => []

/-- The six instructions that write VF as a flag (R11). -/
def Instr.writesFlag : Instr → Bool
  | .addReg _ _ | .sub _ _ | .subn _ _ | .shr _ _ | .shl _ _ | .drw _ _ _ => true
  | _ => false

/-- The five instructions whose meaning the quirk selector chooses (R21). -/
def Instr.readsQuirk : Instr → Bool
  | .shr _ _ | .shl _ _ | .jpOff _ | .ldMemVx _ | .ldVxMem _ => true
  | _ => false

/-- The one instruction that uses the random input (R175). -/
def Instr.readsRandom : Instr → Bool
  | .rnd _ _ => true
  | _ => false

/-! ## Sprites -/

/-- Cell (cx, cy) is the place of a 1 bit of the n-row sprite at I, drawn at (V[x], V[y]) (R136). -/
def SpriteLit (s : State) (x y n : Nibble) (cx : Fin 64) (cy : Fin 32) : Prop :=
  ∃ row < n.val, ∃ col < 8, (s.memRead (s.i.toNat + row)).getLsbD (7 - col) = true ∧
    cx.val = ((s.readV x).toNat + col) % 64 ∧ cy.val = ((s.readV y).toNat + row) % 32

/-! ## Stores and glyphs -/

/-- The bytes an instruction stores from address I on, when it does not fault (R123, R124). -/
def Instr.storedBytes : Instr → State → List Byte
  | .ldB x, s => bcdDigits (s.readV x)
  | .ldMemVx x, s => s.regsUpTo x
  | _, _ => []

/-- What address a reads after instruction i has stored: the stored byte inside the block, the old byte outside it (R46, R48). -/
def byteAfterStore (i : Instr) (s : State) (a : Nat) : Byte :=
  if s.i.toNat ≤ a then (i.storedBytes s).getD (a - s.i.toNat) (s.memRead a) else s.memRead a

/-- R189's table, one number per glyph, its five bytes from the top row on: written apart from `Config.font`, which claims compare
with it (log 15). -/
def glyphs : List Nat :=
  [0xF0909090F0, 0x2060202070, 0xF010F080F0, 0xF010F010F0, 0x9090F01010, 0xF080F010F0, 0xF080F090F0, 0xF010204040] ++
  [0xF090F090F0, 0xF090F010F0, 0xF090F09090, 0xE090E090E0, 0xF0808080F0, 0xE0909090E0, 0xF080F080F0, 0xF080F08080]

/-- Row `row` of glyph g by R189's table. -/
def glyphRow (g row : Nat) : Byte := BitVec.ofNat 8 (glyphs.getD g 0 / 256 ^ (4 - row))

/-! ## Faults -/

/-- Instruction i, at a fetchable PC, must raise the fault with this code and value (R162, rows 2 to 5). -/
def InstrFaults (i : Instr) (s : State) (cause : BitVec 3) (info : Word) : Prop :=
  match i with
  | .call _ => s.sp.val = 16 ∧ cause = 2 ∧ info = 16
  | .ret => s.sp.val = 0 ∧ cause = 3 ∧ info = 0
  | .drw _ _ n => 0 < n.val ∧ 0xFFF < s.i.toNat + n.val - 1 ∧ cause = 4 ∧ info.toNat = (s.i.toNat + n.val - 1) % 65536
  | .ldB _ => 0xFFF < s.i.toNat + 2 ∧ cause = 4 ∧ info.toNat = (s.i.toNat + 2) % 65536
  | .ldMemVx x | .ldVxMem x => 0xFFF < s.i.toNat + x.val ∧ cause = 4 ∧ info.toNat = (s.i.toNat + x.val) % 65536
  | .skp x | .sknp x => 15 < (s.readV x).toNat ∧ cause = 5 ∧ info.toNat = (s.readV x).toNat
  | _ => False

/-- A step of s must raise the fault with this code and value (R162, R164). -/
def StepFaults (s : State) (cause : BitVec 3) (info : Word) : Prop :=
  (0xFFE < s.pc.toNat ∧ cause = 1 ∧ info = s.pc) ∨
  (s.pc.toNat ≤ 0xFFE ∧ InstrFaults (decodeWord s.fetchWord) s cause info)

/-! ## Invariants -/

/-- The heap is in its canonical form (log 5). -/
def HeapInv (s : State) : Prop := s.heap.wf = true

/-- Every stack entry at index SP or above is 0 (R14). -/
def StackInv (s : State) : Prop := ∀ k : Nibble, s.sp.val ≤ k.val → s.stack[k] = 0

/-- The machine is about to fetch an FX0A with field x. -/
def AtKeyWait (x : Nibble) (s : State) : Prop := s.pc.toNat ≤ 0xFFE ∧ decodeWord s.fetchWord = .ldVxK x

/-- While a wait is pending PC stands at the FX0A that waits, unresolved; once resolved the latch is empty and PC still stands at
an FX0A (R20, R174). -/
def KeyWaitInv (s : State) : Prop :=
  (∀ r, s.awaitingKeyRegister = some r → s.keyWaitResolved = false ∧ AtKeyWait r s) ∧
  (s.keyWaitResolved = true → s.awaitingKeyRegister = none ∧ ∃ x, AtKeyWait x s)

/-- A recorded fault is the one the state it is recorded in must raise (R161, R162). -/
def LatchInv (s : State) : Prop := s.faulted = true → StepFaults s s.faultCause s.faultInfo

/-- All four. -/
def MachineInv (s : State) : Prop := HeapInv s ∧ StackInv s ∧ KeyWaitInv s ∧ LatchInv s

/-! ## The end of a run -/

/-- No fault is recorded: the premise of a safe run (R165). -/
def NoFault (s : State) : Prop := s.faulted = false

/-- The machine is about to fetch a jump to itself, not faulted and not waiting (R199, log 30). -/
def AtSelfJump (s : State) : Prop :=
  s.faulted = false ∧ s.awaitingKeyRegister = none ∧ s.keyWaitResolved = false ∧ s.pc.toNat ≤ 0xFFE ∧
    s.fetchWord.toNat = 0x1000 + s.pc.toNat

end Sys2Proof
end

