-- ==== Sys2Proof/Certificates/Slice0/Obligations.lean ====
section
/-! DEFINITION. The statements for the provers, from the numbered rules of spec/. `exec i s` takes the state whose PC is the
instruction's own address and includes the advance by 2 (log 2); PC arithmetic on 16-bit words is modulo 65536. The words in
`Decodes` clauses are R66's, which the spec takes from general knowledge (its D1, log 6). -/

open Sys2Proof Sys2Proof.Machine

/-! ## Encoding -/

/-- The decoder's six fields, and that they rebuild the word (R61; the source's property S1). -/
def Obligations.FieldsRebuildTheWord : Prop :=
  (∀ w : Word,
    (fieldsOf w).opcode.val = w.toNat / 4096 ∧
    (fieldsOf w).x.val = w.toNat / 256 % 16 ∧
    (fieldsOf w).y.val = w.toNat / 16 % 16 ∧
    (fieldsOf w).n.val = w.toNat % 16 ∧
    (fieldsOf w).nn.toNat = w.toNat % 256 ∧
    (fieldsOf w).nn.toNat = 16 * (fieldsOf w).y.val + (fieldsOf w).n.val ∧
    (fieldsOf w).nnn.toNat = w.toNat % 4096 ∧
    (fieldsOf w).nnn.toNat = 256 * (fieldsOf w).x.val + 16 * (fieldsOf w).y.val + (fieldsOf w).n.val ∧
    (fieldsOf w).opcode.val * 4096 + (fieldsOf w).x.val * 256 + (fieldsOf w).y.val * 16 + (fieldsOf w).n.val = w.toNat) ∧
  (∀ b0 b1 : Byte,
    (fieldsOf (wordOfBytes b0 b1)).opcode.val = b0.toNat / 16 ∧
    (fieldsOf (wordOfBytes b0 b1)).x.val = b0.toNat % 16 ∧
    (fieldsOf (wordOfBytes b0 b1)).y.val = b1.toNat / 16 ∧
    (fieldsOf (wordOfBytes b0 b1)).n.val = b1.toNat % 16 ∧
    (fieldsOf (wordOfBytes b0 b1)).nn = b1 ∧
    (fieldsOf (wordOfBytes b0 b1)).nnn.toNat = 256 * (b0.toNat % 16) + b1.toNat)

/-- Decoding an encoded well-formed instruction gives it back, as a word, as bytes in a stream and as a table word (R60, R61, R66). -/
def Obligations.DecodeOfEncode : Prop :=
  ∀ (i : Instr) (rest : List Byte), i.wellFormed = true →
    decodeWord (encode i) = i ∧
    decodeBytes (encodeBytes i ++ rest) = .ok (i, rest) ∧
    Decodes (encodeNat i) i

/-- Every word decodes to a well-formed instruction whose word it is: no bit of a word is lost (R60, R61). -/
def Obligations.EncodeOfDecode : Prop :=
  ∀ w : Word, (decodeWord w).wellFormed = true ∧ encode (decodeWord w) = w

/-- A word is decoded by the one row it matches (R66); rows never overlap. -/
def Obligations.DecodeFollowsOpcodeTable : Prop :=
  (∀ (w : Word) (r : Row), r ∈ opcodeRows → (w &&& r.mask = r.pattern ↔ (decodeWord w).mnemonic = r.mnemonic)) ∧
  (∀ (w : Word) (r r' : Row), r ∈ opcodeRows → r' ∈ opcodeRows →
    w &&& r.mask = r.pattern → w &&& r'.mask = r'.pattern → r = r')

/-- The unrecognised words are exactly those of R67's table. -/
def Obligations.UnrecognisedWordsAreExactly : Prop :=
  ∀ w : Word, Unrecognised w ↔
    ((fieldsOf w).opcode = 0x0 ∧ (fieldsOf w).nnn ≠ 0x0E0 ∧ (fieldsOf w).nnn ≠ 0x0EE) ∨
    ((fieldsOf w).opcode = 0x8 ∧ (fieldsOf w).n ∈ ([8, 9, 0xA, 0xB, 0xC, 0xD, 0xF] : List Nibble)) ∨
    ((fieldsOf w).opcode = 0xE ∧ (fieldsOf w).nn ∉ ([0x9E, 0xA1] : List Byte)) ∨
    ((fieldsOf w).opcode = 0xF ∧ (fieldsOf w).nn ∉ ([0x07, 0x0A, 0x15, 0x18, 0x1E, 0x29, 0x33, 0x55, 0x65] : List Byte))

/-- Words written out from R66's patterns decode to the instructions they stand for (spec 95_test_vectors.md 2.1). -/
def Obligations.SampleWordsDecode : Prop :=
  Decodes 0x00EE .ret ∧ Decodes 0x1ABC (.jp 0xABC) ∧ Decodes 0x5AB7 (.seReg 0xA 0xB 0x7) ∧
  Decodes 0x8ABE (.shl 0xA 0xB) ∧ Decodes 0xD125 (.drw 1 2 5) ∧ Decodes 0xE3A1 (.sknp 3) ∧
  Decodes 0xF265 (.ldVxMem 2) ∧ Decodes 0x8AB8 (.nop8 0xA 0xB 0x8)

/-! ## The step -/

/-- When the two bytes at PC decode to an instruction, a step of a machine with no fault recorded is exec of it (R41, R64). -/
def Obligations.StepRunsDecodedInstruction : Prop :=
  ∀ (s : State) (i : Instr), NoFault s → s.pc.toNat ≤ 0xFFE →
    decodeBytes [s.memRead s.pc.toNat, s.memRead (s.pc.toNat + 1)] = .ok (i, []) →
    Machine.step s = exec i s

/-- The order of a step's checks: the latch, then the fetch, then the instruction (R64, R164). -/
def Obligations.StepOrderOfChecks : Prop :=
  ∀ s : State,
    (s.faulted = true → Machine.step s = .next s) ∧
    (NoFault s → 0xFFE < s.pc.toNat → ∃ t, Machine.step s = .next t ∧ Latched 1 s.pc s t) ∧
    (NoFault s → s.pc.toNat ≤ 0xFFE → ∃ w : Word,
      w.toNat = (s.memRead s.pc.toNat).toNat * 256 + (s.memRead (s.pc.toNat + 1)).toNat ∧
      Machine.step s = exec (decodeWord w) s)

/-- Every step and every instruction answers a next state, in every state (R64, R160). -/
def Obligations.EveryStepAnswersNext : Prop :=
  (∀ s : State, ∃ t, Machine.step s = .next t) ∧
  (∀ (i : Instr) (s : State), ∃ t, exec i s = .next t)

/-- A step that records a fault sets the latch and changes nothing else, PC included (R161). -/
def Obligations.FaultsArePrecise : Prop :=
  ∀ s t : State, NoFault s → Machine.step s = .next t → t.faulted = true →
    ∃ f : Fault, Latched f.code f.info s t

/-- Which steps fault, with which code and value: R162's table, both ways. -/
def Obligations.FaultsAreExactlyTheTable : Prop :=
  ∀ (s t : State) (cause : BitVec 3) (info : Word), NoFault s → Machine.step s = .next t →
    ((t.faulted = true ∧ t.faultCause = cause ∧ t.faultInfo = info) ↔ StepFaults s cause info)

/-- A faulted machine: step does nothing, reset clears it; the model refuses the host's other operations (R165; the refusals are
the model's, log 24). -/
def Obligations.FaultedMachineIsTerminal : Prop :=
  ∀ s : State, s.faulted = true →
    perform .step s = .next s ∧
    perform .tick s = .refused .hostOperationAfterFault ∧
    (∀ k p, perform (.keyEvent k p) s = .refused .hostOperationAfterFault) ∧
    (∀ image, perform (.load image) s = .refused .hostOperationAfterFault) ∧
    ∃ t, perform .reset s = .next t ∧ NoFault t

/-- The word withFetchWord places is the one the next step runs (the model's own, log 26). -/
def Obligations.PlacedWordIsRunNext : Prop :=
  ∀ (s : State) (w : Nat) (i : Instr), s.heap.wf = true → w < 65536 → Decodes w i →
    Machine.step (s.withFetchWord 16 w) = exec i (s.withFetchWord 16 w)

/-! ## 40_flow.md -/

/-- The no-op class only advances PC: its four rows, and every word that matches no row of R66 (R80). That I, the timers, the key bits
and the key-wait latch are unchanged too is the spec's inference ("the dispatcher has no arm for the word"). -/
def Obligations.NoOpsOnlyAdvance : Prop :=
  (∀ (s : State) (nnn : Addr12), ∃ t, exec (.nop0 nnn) s = .next t ∧ t.pc = s.pc + 2 ∧ SameExcept [.pc] s t) ∧
  (∀ (s : State) (x y n : Nibble), ∃ t, exec (.nop8 x y n) s = .next t ∧ t.pc = s.pc + 2 ∧ SameExcept [.pc] s t) ∧
  (∀ (s : State) (x : Nibble) (nn : Byte), ∃ t, exec (.nopE x nn) s = .next t ∧ t.pc = s.pc + 2 ∧ SameExcept [.pc] s t) ∧
  (∀ (s : State) (x : Nibble) (nn : Byte), ∃ t, exec (.nopF x nn) s = .next t ∧ t.pc = s.pc + 2 ∧ SameExcept [.pc] s t) ∧
  (∀ (s : State) (w : Word), Unrecognised w → ∃ t, exec (decodeWord w) s = .next t ∧ t.pc = s.pc + 2 ∧ SameExcept [.pc] s t)

/-- RET pops the return address and zeroes the vacated entry, or faults on an empty stack (R81). -/
def Obligations.RetPopsOrUnderflows : Prop :=
  Decodes 0x00EE .ret ∧
  ∀ s : State,
    (s.sp.val = 0 → ∃ t, exec .ret s = .next t ∧ Latched 3 0 s t) ∧
    (∀ top : Nibble, s.sp.val = top.val + 1 → ∃ t, exec .ret s = .next t ∧
      t.sp.val = top.val ∧ t.pc = s.stack[top] ∧
      (∀ k : Nibble, t.stack[k] = if k = top then 0 else s.stack[k]) ∧
      SameExcept [.pc, .callStack] s t)

/-- JP sets PC to nnn (R82). -/
def Obligations.JumpSetsPc : Prop :=
  ∀ nnn : Addr12, Decodes (0x1000 + nnn.toNat) (.jp nnn) ∧
    ∀ s : State, ∃ t, exec (.jp nnn) s = .next t ∧ t.pc.toNat = nnn.toNat ∧ SameExcept [.pc] s t

/-- CALL pushes the address after itself and jumps, or faults on a full stack (R83). That the pushed value is the already advanced
PC, and the order write then increment, are the spec's inferences (R83: "derived: from 30_encoding.md rule R64", "from 10_state.md
rule R14"); the fault is its decision D6 (log 10). -/
def Obligations.CallPushesOrOverflows : Prop :=
  ∀ nnn : Addr12, Decodes (0x2000 + nnn.toNat) (.call nnn) ∧
    ∀ s : State,
      (s.sp.val = 16 → ∃ t, exec (.call nnn) s = .next t ∧ Latched 2 16 s t) ∧
      (∀ top : Nibble, s.sp.val = top.val → ∃ t, exec (.call nnn) s = .next t ∧
        t.sp.val = top.val + 1 ∧ t.pc.toNat = nnn.toNat ∧
        (∀ k : Nibble, t.stack[k] = if k = top then s.pc + 2 else s.stack[k]) ∧
        SameExcept [.pc, .callStack] s t)

/-- The four skips add 2 more to PC exactly when their condition holds (R84 to R87). That n of 5XYn and 9XYn does not matter is the
spec's inference (R68: "derived: from rule R65", log 21). -/
def Obligations.SkipsAddTwoMore : Prop :=
  ∀ x y n : Nibble, ∀ nn : Byte,
    Decodes (0x3000 + 0x100 * x.val + nn.toNat) (.seImm x nn) ∧
    Decodes (0x4000 + 0x100 * x.val + nn.toNat) (.sneImm x nn) ∧
    Decodes (0x5000 + 0x100 * x.val + 0x10 * y.val + n.val) (.seReg x y n) ∧
    Decodes (0x9000 + 0x100 * x.val + 0x10 * y.val + n.val) (.sneReg x y n) ∧
    ∀ s : State,
      (∃ t, exec (.seImm x nn) s = .next t ∧ SameExcept [.pc] s t ∧
        t.pc = if s.readV x = nn then s.pc + 4 else s.pc + 2) ∧
      (∃ t, exec (.sneImm x nn) s = .next t ∧ SameExcept [.pc] s t ∧
        t.pc = if s.readV x = nn then s.pc + 2 else s.pc + 4) ∧
      (∃ t, exec (.seReg x y n) s = .next t ∧ SameExcept [.pc] s t ∧
        t.pc = if s.readV x = s.readV y then s.pc + 4 else s.pc + 2) ∧
      (∃ t, exec (.sneReg x y n) s = .next t ∧ SameExcept [.pc] s t ∧
        t.pc = if s.readV x = s.readV y then s.pc + 2 else s.pc + 4)

/-- BNNN adds V[x], x the top nibble of nnn, or V[0], by quirk.jump, without reduction modulo 4096 (R88). -/
def Obligations.JumpWithOffset : Prop :=
  ∀ nnn : Addr12, Decodes (0xB000 + nnn.toNat) (.jpOff nnn) ∧
    ∀ s : State, ∃ t, exec (.jpOff nnn) s = .next t ∧ SameExcept [.pc] s t ∧
      (s.quirk.jump = true → ∀ x : Nibble, x.val = nnn.toNat / 256 → t.pc.toNat = nnn.toNat + (s.readV x).toNat) ∧
      (s.quirk.jump = false → t.pc.toNat = nnn.toNat + (s.readV 0).toNat)

/-! ## 41_alu.md -/

/-- LD Vx, nn and ADD Vx, nn write V[x] only, modulo 256, with no flag (R100, R101). That the carry of the second is discarded is
the spec's inference (R101: "derived: from the source's semantic table, whose row for this instruction names no flag"). -/
def Obligations.ImmediateLoadAndAdd : Prop :=
  ∀ (x : Nibble) (nn : Byte),
    Decodes (0x6000 + 0x100 * x.val + nn.toNat) (.ldImm x nn) ∧
    Decodes (0x7000 + 0x100 * x.val + nn.toNat) (.addImm x nn) ∧
    ∀ s : State,
      (∃ t, exec (.ldImm x nn) s = .next t ∧ t.readV x = nn ∧ t.pc = s.pc + 2 ∧
        RegsSameExcept [x] s t ∧ SameExcept [.pc, .regs] s t) ∧
      (∃ t, exec (.addImm x nn) s = .next t ∧ (t.readV x).toNat = ((s.readV x).toNat + nn.toNat) % 256 ∧ t.pc = s.pc + 2 ∧
        RegsSameExcept [x] s t ∧ SameExcept [.pc, .regs] s t)

/-- The copy and the three logical instructions write V[x] only; VF is untouched unless it is V[x] (R102 to R105, with the spec's
decisions D2 and D4, logs 7 and 9). -/
def Obligations.CopyAndLogicWriteOneRegister : Prop :=
  ∀ x y : Nibble,
    Decodes (0x8000 + 0x100 * x.val + 0x10 * y.val) (.ldReg x y) ∧
    Decodes (0x8001 + 0x100 * x.val + 0x10 * y.val) (.orReg x y) ∧
    Decodes (0x8002 + 0x100 * x.val + 0x10 * y.val) (.andReg x y) ∧
    Decodes (0x8003 + 0x100 * x.val + 0x10 * y.val) (.xorReg x y) ∧
    ∀ s : State,
      (∃ t, exec (.ldReg x y) s = .next t ∧ t.readV x = s.readV y ∧ t.pc = s.pc + 2 ∧
        RegsSameExcept [x] s t ∧ SameExcept [.pc, .regs] s t) ∧
      (∃ t, exec (.orReg x y) s = .next t ∧ t.pc = s.pc + 2 ∧
        (∀ k < 8, (t.readV x).getLsbD k = ((s.readV x).getLsbD k || (s.readV y).getLsbD k)) ∧
        RegsSameExcept [x] s t ∧ SameExcept [.pc, .regs] s t) ∧
      (∃ t, exec (.andReg x y) s = .next t ∧ t.pc = s.pc + 2 ∧
        (∀ k < 8, (t.readV x).getLsbD k = ((s.readV x).getLsbD k && (s.readV y).getLsbD k)) ∧
        RegsSameExcept [x] s t ∧ SameExcept [.pc, .regs] s t) ∧
      (∃ t, exec (.xorReg x y) s = .next t ∧ t.pc = s.pc + 2 ∧
        (∀ k < 8, (t.readV x).getLsbD k = ((s.readV x).getLsbD k != (s.readV y).getLsbD k)) ∧
        RegsSameExcept [x] s t ∧ SameExcept [.pc, .regs] s t)

/-- ADD Vx, Vy: the sum modulo 256 in V[x], then the carry in VF, which wins when x is 0xF (R106, with the spec's decision D3, log 8). -/
def Obligations.AddWritesSumThenCarry : Prop :=
  ∀ x y : Nibble, Decodes (0x8004 + 0x100 * x.val + 0x10 * y.val) (.addReg x y) ∧
    ∀ s : State, ∃ t, exec (.addReg x y) s = .next t ∧ t.pc = s.pc + 2 ∧
      (x ≠ 0xF → (t.readV x).toNat = ((s.readV x).toNat + (s.readV y).toNat) % 256) ∧
      t.readV 0xF = (if 255 < (s.readV x).toNat + (s.readV y).toNat then 1 else 0) ∧
      RegsSameExcept [x, 0xF] s t ∧ SameExcept [.pc, .regs] s t

/-- SUB and SUBN: the difference modulo 256 in V[x], then 1 in VF unless it underflowed (R107, R109, D3, log 8). -/
def Obligations.SubtractsWriteDifferenceThenNotBorrow : Prop :=
  ∀ x y : Nibble,
    Decodes (0x8005 + 0x100 * x.val + 0x10 * y.val) (.sub x y) ∧
    Decodes (0x8007 + 0x100 * x.val + 0x10 * y.val) (.subn x y) ∧
    ∀ s : State,
      (∃ t, exec (.sub x y) s = .next t ∧ t.pc = s.pc + 2 ∧
        (x ≠ 0xF → (t.readV x).toNat = ((s.readV x).toNat + 256 - (s.readV y).toNat) % 256) ∧
        t.readV 0xF = (if (s.readV x).toNat < (s.readV y).toNat then 0 else 1) ∧
        RegsSameExcept [x, 0xF] s t ∧ SameExcept [.pc, .regs] s t) ∧
      (∃ t, exec (.subn x y) s = .next t ∧ t.pc = s.pc + 2 ∧
        (x ≠ 0xF → (t.readV x).toNat = ((s.readV y).toNat + 256 - (s.readV x).toNat) % 256) ∧
        t.readV 0xF = (if (s.readV y).toNat < (s.readV x).toNat then 0 else 1) ∧
        RegsSameExcept [x, 0xF] s t ∧ SameExcept [.pc, .regs] s t)

/-- SHR and SHL by one: the operand is V[x] or V[y] by quirk.shift, the bit shifted out goes to VF last (R108, R110, D3, D5, logs 6, 8). -/
def Obligations.ShiftsWriteResultThenBitOut : Prop :=
  ∀ x y : Nibble,
    Decodes (0x8006 + 0x100 * x.val + 0x10 * y.val) (.shr x y) ∧
    Decodes (0x800E + 0x100 * x.val + 0x10 * y.val) (.shl x y) ∧
    ∀ (s : State) (b : Byte), b = (if s.quirk.shift = true then s.readV x else s.readV y) →
      (∃ t, exec (.shr x y) s = .next t ∧ t.pc = s.pc + 2 ∧
        (x ≠ 0xF → (t.readV x).toNat = b.toNat / 2) ∧ (t.readV 0xF).toNat = b.toNat % 2 ∧
        RegsSameExcept [x, 0xF] s t ∧ SameExcept [.pc, .regs] s t) ∧
      (∃ t, exec (.shl x y) s = .next t ∧ t.pc = s.pc + 2 ∧
        (x ≠ 0xF → (t.readV x).toNat = b.toNat * 2 % 256) ∧ (t.readV 0xF).toNat = b.toNat / 128 ∧
        RegsSameExcept [x, 0xF] s t ∧ SameExcept [.pc, .regs] s t)

/-- RND: the next byte of the free sequence under the mask nn, and the draw is counted, so that the next execution reads a fresh
one (R111, R175; the counter is the model's own, log 4). The statement holds whatever the bytes are. -/
def Obligations.RandomByteUnderMask : Prop :=
  ∀ (x : Nibble) (nn : Byte), Decodes (0xC000 + 0x100 * x.val + nn.toNat) (.rnd x nn) ∧
    ∀ s : State, ∃ t, exec (.rnd x nn) s = .next t ∧ t.pc = s.pc + 2 ∧
      (∀ k < 8, (t.readV x).getLsbD k = ((Config.rndByte s.rndDraws).getLsbD k && nn.getLsbD k)) ∧
      t.rndDraws = s.rndDraws + 1 ∧ RegsSameExcept [x] s t ∧ SameExcept [.pc, .regs, .draws] s t

/-! ## 42_index_memory.md -/

/-- The three writes of I: nnn, the sum modulo 65536, the glyph address of the whole byte (R120, R121, R122). That the sum wraps at 65536 is the
spec's inference (R121: "derived: from the 16-bit width the source gives the index register", log 16). -/
def Obligations.IndexWrites : Prop :=
  ∀ (nnn : Addr12) (x : Nibble),
    Decodes (0xA000 + nnn.toNat) (.ldI nnn) ∧
    Decodes (0xF01E + 0x100 * x.val) (.addI x) ∧
    Decodes (0xF029 + 0x100 * x.val) (.ldF x) ∧
    ∀ s : State,
      (∃ t, exec (.ldI nnn) s = .next t ∧ t.i.toNat = nnn.toNat ∧ t.pc = s.pc + 2 ∧ SameExcept [.pc, .index] s t) ∧
      (∃ t, exec (.addI x) s = .next t ∧ t.i.toNat = (s.i.toNat + (s.readV x).toNat) % 65536 ∧ t.pc = s.pc + 2 ∧
        SameExcept [.pc, .index] s t) ∧
      (∃ t, exec (.ldF x) s = .next t ∧ t.i.toNat = 0x50 + 5 * (s.readV x).toNat ∧ t.pc = s.pc + 2 ∧
        SameExcept [.pc, .index] s t)

/-- FX33 stores hundreds, tens and units at I, I + 1, I + 2 and nothing else, or faults before any write (R123). -/
def Obligations.BcdStoresThreeDigits : Prop :=
  ∀ x : Nibble, Decodes (0xF033 + 0x100 * x.val) (.ldB x) ∧
    ∀ s : State, HeapInv s →
      (0xFFF < s.i.toNat + 2 → ∃ t, exec (.ldB x) s = .next t ∧ Latched 4 (s.i + 2) s t) ∧
      (s.i.toNat + 2 ≤ 0xFFF → ∃ t, exec (.ldB x) s = .next t ∧ t.pc = s.pc + 2 ∧
        (t.memRead s.i.toNat).toNat = (s.readV x).toNat / 100 ∧
        (t.memRead (s.i.toNat + 1)).toNat = (s.readV x).toNat / 10 % 10 ∧
        (t.memRead (s.i.toNat + 2)).toNat = (s.readV x).toNat % 10 ∧
        HeapSameOutside s.i.toNat 3 s t ∧ SameExcept [.pc, .heap] s t)

/-- FX55 stores V[0] to V[x] at I upward and nothing else, moves I past the block unless quirk.tempIndex, or faults before any write (R124). -/
def Obligations.StoreRegisterBlock : Prop :=
  ∀ x : Nibble, Decodes (0xF055 + 0x100 * x.val) (.ldMemVx x) ∧
    ∀ s : State, HeapInv s →
      (0xFFF < s.i.toNat + x.val → ∃ t, exec (.ldMemVx x) s = .next t ∧
        Latched 4 (BitVec.ofNat 16 (s.i.toNat + x.val)) s t) ∧
      (s.i.toNat + x.val ≤ 0xFFF → ∃ t, exec (.ldMemVx x) s = .next t ∧ t.pc = s.pc + 2 ∧
        (∀ r : Nibble, r.val ≤ x.val → t.memRead (s.i.toNat + r.val) = s.readV r) ∧
        HeapSameOutside s.i.toNat (x.val + 1) s t ∧
        t.i.toNat = (if s.quirk.tempIndex = true then s.i.toNat else (s.i.toNat + x.val + 1) % 65536) ∧
        SameExcept [.pc, .heap, .index] s t)

/-- FX65 loads V[0] to V[x] from I upward and no other register, moves I past the block unless quirk.tempIndex, or faults before
any write (R125). -/
def Obligations.LoadRegisterBlock : Prop :=
  ∀ x : Nibble, Decodes (0xF065 + 0x100 * x.val) (.ldVxMem x) ∧
    ∀ s : State,
      (0xFFF < s.i.toNat + x.val → ∃ t, exec (.ldVxMem x) s = .next t ∧
        Latched 4 (BitVec.ofNat 16 (s.i.toNat + x.val)) s t) ∧
      (s.i.toNat + x.val ≤ 0xFFF → ∃ t, exec (.ldVxMem x) s = .next t ∧ t.pc = s.pc + 2 ∧
        (∀ r : Nibble, t.readV r = if r.val ≤ x.val then s.memRead (s.i.toNat + r.val) else s.readV r) ∧
        t.i.toNat = (if s.quirk.tempIndex = true then s.i.toNat else (s.i.toNat + x.val + 1) % 65536) ∧
        SameExcept [.pc, .regs, .index] s t)

/-! ## 43_display.md -/

/-- CLS darkens every cell and changes nothing else (R135). -/
def Obligations.ClearScreen : Prop :=
  Decodes 0x00E0 .cls ∧
  ∀ s : State, ∃ t, exec .cls s = .next t ∧ (∀ cx cy, t.fb.cell cx cy = false) ∧ t.pc = s.pc + 2 ∧
    SameExcept [.pc, .framebuffer] s t

/-- DRW toggles exactly the cells under the sprite's 1 bits, wrapping on each axis, and VF says whether one of them was set; or it
faults before any write (R136). -/
def Obligations.DrawTogglesSpriteCells : Prop :=
  ∀ x y n : Nibble, Decodes (0xD000 + 0x100 * x.val + 0x10 * y.val + n.val) (.drw x y n) ∧
    ∀ s : State,
      (0 < n.val → 0xFFF < s.i.toNat + n.val - 1 → ∃ t, exec (.drw x y n) s = .next t ∧
        Latched 4 (BitVec.ofNat 16 (s.i.toNat + n.val - 1)) s t) ∧
      (n.val = 0 ∨ s.i.toNat + n.val - 1 ≤ 0xFFF → ∃ t, exec (.drw x y n) s = .next t ∧ t.pc = s.pc + 2 ∧
        (∀ cx cy, SpriteLit s x y n cx cy → t.fb.cell cx cy = !s.fb.cell cx cy) ∧
        (∀ cx cy, ¬ SpriteLit s x y n cx cy → t.fb.cell cx cy = s.fb.cell cx cy) ∧
        ((∃ cx cy, SpriteLit s x y n cx cy ∧ s.fb.cell cx cy = true) → t.readV 0xF = 1) ∧
        ((∀ cx cy, SpriteLit s x y n cx cy → s.fb.cell cx cy = false) → t.readV 0xF = 0) ∧
        RegsSameExcept [0xF] s t ∧ SameExcept [.pc, .regs, .framebuffer] s t)

/-! ## 44_keys_timers.md -/

/-- SKP and SKNP test the key V[x] names, or fault when V[x] is above 15 (R145, R146). -/
def Obligations.KeySkips : Prop :=
  ∀ x : Nibble,
    Decodes (0xE09E + 0x100 * x.val) (.skp x) ∧
    Decodes (0xE0A1 + 0x100 * x.val) (.sknp x) ∧
    ∀ s : State,
      (15 < (s.readV x).toNat →
        (∃ t, exec (.skp x) s = .next t ∧ Latched 5 ((s.readV x).setWidth 16) s t) ∧
        (∃ t, exec (.sknp x) s = .next t ∧ Latched 5 ((s.readV x).setWidth 16) s t)) ∧
      (∀ k : Nibble, (s.readV x).toNat = k.val →
        (∃ t, exec (.skp x) s = .next t ∧ SameExcept [.pc] s t ∧
          t.pc = if s.keyDown k = true then s.pc + 4 else s.pc + 2) ∧
        (∃ t, exec (.sknp x) s = .next t ∧ SameExcept [.pc] s t ∧
          t.pc = if s.keyDown k = true then s.pc + 2 else s.pc + 4))

/-- FX07 reads DT, FX15 writes DT, FX18 writes ST (R147, R149, R150). -/
def Obligations.TimerTransfers : Prop :=
  ∀ x : Nibble,
    Decodes (0xF007 + 0x100 * x.val) (.ldVxDt x) ∧
    Decodes (0xF015 + 0x100 * x.val) (.ldDtVx x) ∧
    Decodes (0xF018 + 0x100 * x.val) (.ldStVx x) ∧
    ∀ s : State,
      (∃ t, exec (.ldVxDt x) s = .next t ∧ t.readV x = s.dt ∧ t.pc = s.pc + 2 ∧
        RegsSameExcept [x] s t ∧ SameExcept [.pc, .regs] s t) ∧
      (∃ t, exec (.ldDtVx x) s = .next t ∧ t.dt = s.readV x ∧ t.pc = s.pc + 2 ∧ SameExcept [.pc, .delayTimer] s t) ∧
      (∃ t, exec (.ldStVx x) s = .next t ∧ t.st = s.readV x ∧ t.pc = s.pc + 2 ∧ SameExcept [.pc, .soundTimer] s t)

/-- One execution of FX0A: after a resolved wait it clears the bit and goes on, else it records x and comes back to itself (R148). -/
def Obligations.KeyWaitInstruction : Prop :=
  ∀ x : Nibble, Decodes (0xF00A + 0x100 * x.val) (.ldVxK x) ∧
    ∀ s : State,
      (s.keyWaitResolved = true → ∃ t, exec (.ldVxK x) s = .next t ∧ t.keyWaitResolved = false ∧
        t.awaitingKeyRegister = s.awaitingKeyRegister ∧ t.pc = s.pc + 2 ∧ SameExcept [.pc, .keyWait] s t) ∧
      (s.keyWaitResolved = false → ∃ t, exec (.ldVxK x) s = .next t ∧ t.keyWaitResolved = false ∧
        t.awaitingKeyRegister = some x ∧ t.pc = s.pc ∧ SameExcept [.keyWait] s t)

/-- The key-wait over time (R148's table, R173; the source's property S6): however many steps, PC stays and the latch holds x;
the press of k writes V[x] and empties the latch, and is not recorded as a held key; the next step moves past the FX0A. -/
def Obligations.KeyWaitProtocol : Prop :=
  ∀ (x k : Nibble) (s : State) (n : Nat), NoFault s → AtKeyWait x s →
    s.awaitingKeyRegister = none → s.keyWaitResolved = false →
    ∃ waiting pressed after : State,
      performAll (List.replicate (n + 1) .step) s = .next waiting ∧
      waiting.awaitingKeyRegister = some x ∧ waiting.keyWaitResolved = false ∧ SameExcept [.keyWait] s waiting ∧
      perform (.keyEvent k true) waiting = .next pressed ∧
      pressed.awaitingKeyRegister = none ∧ pressed.keyWaitResolved = true ∧ (pressed.readV x).toNat = k.val ∧
      RegsSameExcept [x] s pressed ∧ SameExcept [.regs, .keyWait] s pressed ∧
      perform .step pressed = .next after ∧
      after.awaitingKeyRegister = none ∧ after.keyWaitResolved = false ∧ after.pc = s.pc + 2 ∧
      (after.readV x).toNat = k.val ∧ RegsSameExcept [x] s after ∧ SameExcept [.pc, .regs] s after

/-! ## Host operations -/

/-- A tick takes each timer to max(t - 1, 0) and changes nothing else, waiting or not (R171). -/
def Obligations.TickCountsDown : Prop :=
  ∀ s : State, NoFault s → ∃ t, perform .tick s = .next t ∧
    t.dt.toNat = s.dt.toNat - 1 ∧ t.st.toNat = s.st.toNat - 1 ∧ SameExcept [.delayTimer, .soundTimer] s t

/-- The three cases of a key event (R173). -/
def Obligations.KeyEventCases : Prop :=
  ∀ (s : State) (k : Nibble), NoFault s →
    (∃ t, perform (.keyEvent k false) s = .next t ∧
      (∀ q, t.keyDown q = if q = k then false else s.keyDown q) ∧ SameExcept [.keys] s t) ∧
    (∀ r, s.awaitingKeyRegister = some r → ∃ t, perform (.keyEvent k true) s = .next t ∧
      (t.readV r).toNat = k.val ∧ t.awaitingKeyRegister = none ∧ t.keyWaitResolved = true ∧
      RegsSameExcept [r] s t ∧ SameExcept [.regs, .keyWait] s t) ∧
    (s.awaitingKeyRegister = none → ∃ t, perform (.keyEvent k true) s = .next t ∧
      (∀ q, t.keyDown q = if q = k then true else s.keyDown q) ∧ SameExcept [.keys] s t)

/-- Reset, in every state: everything zero but the quirk booleans, which are kept (R185). -/
def Obligations.ResetClearsAllButQuirks : Prop :=
  ∀ s : State, ∃ t, perform .reset s = .next t ∧
    (∀ r, t.readV r = 0) ∧ t.i = 0 ∧ t.pc = 0 ∧ t.sp.val = 0 ∧ (∀ k : Nibble, t.stack[k] = 0) ∧
    (∀ a, t.memRead a = 0) ∧ t.dt = 0 ∧ t.st = 0 ∧ (∀ cx cy, t.fb.cell cx cy = false) ∧
    (∀ k, t.keyDown k = false) ∧ t.awaitingKeyRegister = none ∧ t.keyWaitResolved = false ∧ NoFault t ∧
    t.quirk = s.quirk

/-- The state right after reset, whatever the quirk booleans: every value R25 gives (the quirk booleans have none and are left out). -/
def Obligations.ResetStateValues : Prop :=
  (∀ q : Quirks, (State.resetWith q).quirk = q ∧ perform .reset (State.resetWith q) = .next (State.resetWith q)) ∧
  ∀ q : Quirks, ∀ s, s = State.resetWith q ∨ s = State.reset →
    (∀ r, s.readV r = 0) ∧ s.i = 0 ∧ s.pc = 0 ∧ s.sp.val = 0 ∧ (∀ k : Nibble, s.stack[k] = 0) ∧
    (∀ a, s.memRead a = 0) ∧ s.dt = 0 ∧ s.st = 0 ∧ (∀ cx cy, s.fb.cell cx cy = false) ∧
    (∀ k, s.keyDown k = false) ∧ s.awaitingKeyRegister = none ∧ s.keyWaitResolved = false ∧ NoFault s

/-- A load on the reset state puts the image at 0x200, the font at 0x50, PC at 0x200, and leaves every other byte 0; on any other
state without a fault it is refused (R187). -/
def Obligations.LoadInstallsImageAndFont : Prop :=
  ∀ (image : List Byte) (s : State), NoFault s →
    (inResetState s = true → image.length ≤ 3584 → ∃ t, perform (.load image) s = .next t ∧
      (∀ k < image.length, t.memRead (0x200 + k) = image.getD k 0) ∧
      (∀ k < 80, t.memRead (0x050 + k) = Config.font.getD k 0) ∧
      (∀ a, ¬ (0x200 ≤ a ∧ a < 0x200 + image.length) → ¬ (0x050 ≤ a ∧ a < 0x0A0) → t.memRead a = 0) ∧
      t.pc.toNat = 0x200 ∧ SameExcept [.pc, .heap] s t) ∧
    (inResetState s = true → 3584 < image.length → perform (.load image) s = .next s) ∧
    (inResetState s = false → perform (.load image) s = .refused .loadOutsideResetState)

/-- An image longer than 3584 bytes is reported and changes nothing (R188). -/
def Obligations.LoadRejectsLongImage : Prop :=
  ∀ (image : List Byte), 3584 < image.length →
    loadReport image = .sizeLimitExceeded ∧
    ∀ s : State, NoFault s → inResetState s = true → perform (.load image) s = .next s

/-- The boot sequence, from any state, reaches the launch state with the chosen quirk booleans: the image, the font, every other
byte 0, PC at 0x200, everything else as after reset (R187, R190; the draw counter, the model's own, apart: log 4). -/
def Obligations.BootReachesLaunchState : Prop :=
  ∀ (q : Quirks) (image : List Byte) (s : State), image.length ≤ 3584 →
    ∃ t, boot q image s = .next t ∧ t.quirk = q ∧ t.pc.toNat = 0x200 ∧
      (∀ k < image.length, t.memRead (0x200 + k) = image.getD k 0) ∧
      (∀ k < 80, t.memRead (0x050 + k) = Config.font.getD k 0) ∧
      (∀ a, ¬ (0x200 ≤ a ∧ a < 0x200 + image.length) → ¬ (0x050 ≤ a ∧ a < 0x0A0) → t.memRead a = 0) ∧
      SameExcept [.pc, .heap, .draws] (State.resetWith q) t

/-- The font is R189's table of 80 bytes, and after a load FX29 on a digit points I at that digit's five bytes of it (R122, R189; the
spec takes the bytes from general knowledge, its D12, log 15). -/
def Obligations.FontGlyphIsAddressed : Prop :=
  Config.font.length = 80 ∧ (∀ g < 16, ∀ row < 5, Config.font.getD (5 * g + row) 0 = glyphRow g row) ∧
  ∀ (image : List Byte) (s t u : State) (x : Nibble) (w : Vector Byte 16), inResetState s = true → NoFault s →
    image.length ≤ 3584 → perform (.load image) s = .next t → w[x].toNat ≤ 15 →
    exec (.ldF x) (t.setV w) = .next u →
    ∀ row < 5, u.memRead (u.i.toNat + row) = glyphRow w[x].toNat row

/-- After reset alone each step only adds 2 to PC, for 2048 steps; the next step faults at the fetch (R191). -/
def Obligations.ClearedMemoryWalks : Prop :=
  ∀ q : Quirks,
    (∀ k ≤ 2048, ∃ t, performAll (List.replicate k .step) (State.resetWith q) = .next t ∧
      t.pc.toNat = 2 * k ∧ SameExcept [.pc] (State.resetWith q) t) ∧
    (∃ t, performAll (List.replicate 2049 .step) (State.resetWith q) = .next t ∧
      t.faulted = true ∧ t.faultCause = 1 ∧ t.faultInfo = 0x1000 ∧ t.pc = 0x1000)

/-! ## Invariants -/

/-- Every step keeps the heap in canonical form (log 5; the address space of R40, R46). -/
def Obligations.StepKeepsHeapCanonical : Prop :=
  ∀ s t : State, HeapInv s → Machine.step s = .next t → HeapInv t

/-- Every step keeps the entries at SP and above zero (R14). -/
def Obligations.StepKeepsDeadStackZero : Prop :=
  ∀ s t : State, StackInv s → Machine.step s = .next t → StackInv t

/-- Every step keeps PC at the FX0A of a pending or just resolved wait (R20, R174). -/
def Obligations.StepKeepsKeyWaitAtItsInstruction : Prop :=
  ∀ s t : State, KeyWaitInv s → Machine.step s = .next t → KeyWaitInv t

/-- Every step keeps the recorded fault the one its state must raise (R161, R162, R165). -/
def Obligations.StepKeepsLatchTruthful : Prop :=
  ∀ s t : State, LatchInv s → Machine.step s = .next t → LatchInv t

/-- The four invariants hold in the reset state, whatever the quirk booleans. -/
def Obligations.InvariantsHoldAtReset : Prop := ∀ q : Quirks, MachineInv (State.resetWith q) ∧ MachineInv State.reset

/-- Whatever operations the host performs, in whatever order, the four invariants are kept (R5, R48). -/
def Obligations.EveryInterleavingKeepsInvariants : Prop :=
  ∀ (ops : List HostOp) (s t : State), MachineInv s → performAll ops s = .next t → MachineInv t

/-! ## Whole-machine rules -/

/-- No instruction writes a part of the state, or a register, that R25's table and R11 do not give it. -/
def Obligations.InstructionsWriteOnlyTheirParts : Prop :=
  ∀ (i : Instr) (s t : State), exec i s = .next t → SameExcept i.parts s t ∧ RegsSameExcept i.destRegs s t

/-- VF as a flag is the whole byte 0 or 1 after each of the six flag writers that did not fault; every other instruction leaves VF
alone unless it is a destination (R11). -/
def Obligations.FlagRegisterWriters : Prop :=
  ∀ (i : Instr) (s t : State), NoFault s → exec i s = .next t →
    (i.writesFlag = true → NoFault t → t.readV 0xF = 0 ∨ t.readV 0xF = 1) ∧
    (i.writesFlag = false → 0xF ∉ i.destRegs → t.readV 0xF = s.readV 0xF)

/-- The quirk selector is never written by an instruction, and only five instructions depend on it (R21). -/
def Obligations.QuirksSelectFiveInstructions : Prop :=
  ∀ (i : Instr) (s t : State), exec i s = .next t → t.quirk = s.quirk ∧
    (i.readsQuirk = false → ∀ q : Quirks, exec i { s with quirk := q } = .next { t with quirk := q })

/-- Only CXNN uses the random input (R175; the draw counter is the model's own, log 4). -/
def Obligations.OnlyRandomUsesRandomInput : Prop :=
  ∀ (i : Instr) (s t : State) (k : Nat), i.readsRandom = false → exec i s = .next t →
    exec i (s.setDraws k) = .next (t.setDraws k)

/-- At a self-jump no step changes any state (R199). -/
def Obligations.SelfJumpChangesNothing : Prop :=
  ∀ s : State, AtSelfJump s → Machine.step s = .next s

/-- A store is seen by the very next fetch (R51, R193): after an FX33 or FX55 that did not fault, the next step runs the word whose
two bytes are, each on its own, the byte just stored there or the old one where nothing was stored. -/
def Obligations.StoreIsSeenByNextFetch : Prop :=
  ∀ (s t : State) (i : Instr) (x : Nibble), NoFault s → HeapInv s → i = .ldB x ∨ i = .ldMemVx x →
    exec i s = .next t → NoFault t → (s.pc + 2).toNat ≤ 0xFFE →
    Machine.step t = exec (decodeWord
      (wordOfBytes (byteAfterStore i s (s.pc + 2).toNat) (byteAfterStore i s ((s.pc + 2).toNat + 1)))) t

/-- Registers stored by FX55 come back by FX65 at the same I, whatever the registers hold in between (R124, R125). -/
def Obligations.StoredRegistersLoadBack : Prop :=
  ∀ (s t u : State) (x : Nibble) (w : Vector Byte 16), NoFault s → HeapInv s → s.i.toNat + x.val ≤ 0xFFF →
    exec (.ldMemVx x) s = .next t → exec (.ldVxMem x) ((t.setV w).setI s.i) = .next u →
    ∀ r : Nibble, u.readV r = if r.val ≤ x.val then s.readV r else w[r]

/-- RET after CALL, wherever the callee ends, comes back to the instruction after the CALL with the stack as it was (R14, R81, R83). -/
def Obligations.ReturnUndoesCall : Prop :=
  ∀ (s t u : State) (nnn : Addr12) (p : Word), NoFault s → StackInv s → s.sp.val < 16 →
    exec (.call nnn) s = .next t → exec .ret (t.setPc p) = .next u →
    u.pc = s.pc + 2 ∧ SameExcept [.pc] s u

/-- Drawing the same sprite twice at the same place restores the screen, and the second draw reports the collision when the first
reported none and some pixel is lit (R136; the source's property S5). -/
def Obligations.DrawingTwiceErases : Prop :=
  ∀ (s t u : State) (x y n : Nibble), NoFault s → x ≠ 0xF → y ≠ 0xF → (n.val = 0 ∨ s.i.toNat + n.val - 1 ≤ 0xFFF) →
    exec (.drw x y n) s = .next t → exec (.drw x y n) t = .next u →
    (∀ cx cy, u.fb.cell cx cy = s.fb.cell cx cy) ∧
    (t.readV 0xF = 0 → (∃ cx cy, SpriteLit s x y n cx cy) → u.readV 0xF = 1)
end

