-- ==== Sys2Proof/Laws/Decode.lean ====
section
/-! SUPPORT. The fields of a word, and of the three word shapes the encoder builds (spec 30_encoding.md R61, R62). -/

namespace Sys2Proof

variable (w : Word)

theorem fieldsOf_opcode_val : (fieldsOf w).opcode.val = w.toNat / 4096 := by
  have := w.isLt
  exact Nat.mod_eq_of_lt (by omega)
theorem fieldsOf_x_val : (fieldsOf w).x.val = w.toNat / 256 % 16 := rfl
theorem fieldsOf_y_val : (fieldsOf w).y.val = w.toNat / 16 % 16 := rfl
theorem fieldsOf_n_val : (fieldsOf w).n.val = w.toNat % 16 := rfl
theorem fieldsOf_nn_toNat : (fieldsOf w).nn.toNat = w.toNat % 256 := rfl
theorem fieldsOf_nnn_toNat : (fieldsOf w).nnn.toNat = w.toNat % 4096 := rfl

theorem toNat_encode (i : Instr) : (encode i).toNat = encodeNat i % 65536 := rfl

/-- The number of an instruction fits in 16 bits. -/
theorem encodeNat_lt (i : Instr) : encodeNat i < 65536 := by
  cases i <;> simp only [encodeNat, wordNNN, wordXNN, wordXYN] <;> bv_omega

/-- The fields of a word of format F_NNN. -/
theorem fieldsOf_wordNNN {op : Nat} (h : op < 16) (nnn : Addr12) :
    (fieldsOf (BitVec.ofNat 16 (wordNNN op nnn))).opcode.val = op ∧
    (fieldsOf (BitVec.ofNat 16 (wordNNN op nnn))).nnn = nnn := by
  have := nnn.isLt
  refine ⟨?_, BitVec.eq_of_toNat_eq ?_⟩ <;>
    simp only [fieldsOf_opcode_val, fieldsOf_nnn_toNat, BitVec.toNat_ofNat, wordNNN] <;> omega

/-- The fields of a word of format F_XNN or F_X. -/
theorem fieldsOf_wordXNN {op : Nat} (h : op < 16) (x : Nibble) (nn : Byte) :
    (fieldsOf (BitVec.ofNat 16 (wordXNN op x nn))).opcode.val = op ∧
    (fieldsOf (BitVec.ofNat 16 (wordXNN op x nn))).x = x ∧
    (fieldsOf (BitVec.ofNat 16 (wordXNN op x nn))).nn = nn := by
  have := nn.isLt
  have := x.isLt
  refine ⟨?_, Fin.ext ?_, BitVec.eq_of_toNat_eq ?_⟩ <;>
    simp only [fieldsOf_opcode_val, fieldsOf_x_val, fieldsOf_nn_toNat, BitVec.toNat_ofNat, wordXNN] <;> omega

/-- The fields of a word of format F_XYN or F_XY. -/
theorem fieldsOf_wordXYN {op : Nat} (h : op < 16) (x y n : Nibble) :
    (fieldsOf (BitVec.ofNat 16 (wordXYN op x y n))).opcode.val = op ∧
    (fieldsOf (BitVec.ofNat 16 (wordXYN op x y n))).x = x ∧
    (fieldsOf (BitVec.ofNat 16 (wordXYN op x y n))).y = y ∧
    (fieldsOf (BitVec.ofNat 16 (wordXYN op x y n))).n = n := by
  have := x.isLt
  have := y.isLt
  have := n.isLt
  refine ⟨?_, Fin.ext ?_, Fin.ext ?_, Fin.ext ?_⟩ <;>
    simp only [fieldsOf_opcode_val, fieldsOf_x_val, fieldsOf_y_val, fieldsOf_n_val, BitVec.toNat_ofNat, wordXYN] <;> omega

/-- What the primary selection answers, opcode by opcode (R65, R66). -/
theorem select_eq (f : Fields) :
    select f = match f.opcode with
      | 0x0 => select0 f
      | 0x1 => .jp f.nnn
      | 0x2 => .call f.nnn
      | 0x3 => .seImm f.x f.nn
      | 0x4 => .sneImm f.x f.nn
      | 0x5 => .seReg f.x f.y f.n
      | 0x6 => .ldImm f.x f.nn
      | 0x7 => .addImm f.x f.nn
      | 0x8 => select8 f
      | 0x9 => .sneReg f.x f.y f.n
      | 0xA => .ldI f.nnn
      | 0xB => .jpOff f.nnn
      | 0xC => .rnd f.x f.nn
      | 0xD => .drw f.x f.y f.n
      | 0xE => selectE f
      | _ => selectF f := by
  obtain ⟨op, x, y, n, nn, nnn⟩ := f
  unfold select
  dsimp only
  fin_cases op <;> rfl

/-- The word of two bytes, high byte first (R41). -/
theorem toNat_wordOfBytes (hi lo : Byte) : (wordOfBytes hi lo).toNat = hi.toNat * 256 + lo.toNat := by
  have := hi.isLt
  have := lo.isLt
  simp only [wordOfBytes, BitVec.toNat_ofNat]
  omega

/-- A table word of 16 bits is decoded as that word. -/
theorem decodeTableWord_eq {n : Nat} (h : n < 65536) :
    decodeTableWord 16 n = some (decodeWord (BitVec.ofNat 16 n)) := by
  have e : wordOfBytes (BitVec.ofNat 8 (n % 2 ^ 16 / 256)) (BitVec.ofNat 8 (n % 2 ^ 16)) = BitVec.ofNat 16 n := by
    apply BitVec.eq_of_toNat_eq
    rw [toNat_wordOfBytes]
    simp only [BitVec.toNat_ofNat]
    omega
  show some (decodeWord _) = _
  rw [e]

/-- The mask 0xF000 keeps the opcode. -/
theorem and_maskF000 : (w &&& 0xF000#16).toNat = w.toNat / 4096 * 4096 := by
  have e : w &&& 0xF000#16 = (w >>> 12) <<< 12 := by
    ext i hi
    simp only [BitVec.getElem_and, BitVec.getElem_shiftLeft]
    interval_cases i <;> simp
  rw [e]
  have := w.isLt
  simp only [BitVec.toNat_shiftLeft, BitVec.toNat_ushiftRight, Nat.shiftRight_eq_div_pow, Nat.shiftLeft_eq]
  omega

/-- A mask of the low k bits keeps the remainder. -/
theorem and_mask_low (k m : Nat) (hm : m = 2 ^ k - 1) (lt : m < 65536) :
    (w &&& BitVec.ofNat 16 m).toNat = w.toNat % 2 ^ k := by
  subst hm
  rw [BitVec.toNat_and, BitVec.toNat_ofNat, Nat.mod_eq_of_lt lt, Nat.and_two_pow_sub_one_eq_mod]

theorem and_mask_split (lo : Word) (h : 0xF000#16 &&& lo = 0) :
    (w &&& (0xF000#16 ||| lo)).toNat = w.toNat / 4096 * 4096 + (w &&& lo).toNat := by
  have d : (w &&& 0xF000#16) &&& (w &&& lo) = 0 := by
    have : (w &&& 0xF000#16) &&& (w &&& lo) = (w &&& w) &&& (0xF000#16 &&& lo) := by
      ac_rfl
    rw [this, h]; simp
  have e : w &&& (0xF000#16 ||| lo) = (w &&& 0xF000#16) + (w &&& lo) := by
    rw [BitVec.add_eq_or_of_and_eq_zero _ _ d, BitVec.and_or_distrib_left]
  have l : (w &&& lo).toNat + w.toNat / 4096 * 4096 < 65536 := by
    have := BitVec.toNat_add_of_and_eq_zero d
    rw [and_maskF000] at this
    have := ((w &&& 0xF000#16) + (w &&& lo)).isLt
    omega
  rw [e, BitVec.toNat_add, and_maskF000]
  omega

/-- The mask 0xF00F keeps the opcode and n. -/
theorem and_maskF00F : (w &&& 0xF00F#16).toNat = w.toNat / 4096 * 4096 + w.toNat % 16 := by
  have := and_mask_split w 0x000F#16 (by decide)
  rw [and_mask_low w 4 15 rfl (by decide)] at this
  exact this

/-- The mask 0xF0FF keeps the opcode and nn. -/
theorem and_maskF0FF : (w &&& 0xF0FF#16).toNat = w.toNat / 4096 * 4096 + w.toNat % 256 := by
  have := and_mask_split w 0x00FF#16 (by decide)
  rw [and_mask_low w 8 255 rfl (by decide)] at this
  exact this

end Sys2Proof
end

