-- ==== Sys2Proof/Laws/State.lean ====
section
/-! SUPPORT. The field lemmas of the state: what each named update does to each field and each read; the shared operations as
updates; and the frame of each update. Later proofs rewrite with these and unfold no record update. -/

namespace Sys2Proof.Machine

variable (s : State)

/-! ### setV -/

@[simp] theorem State.setV_v (w : Vector Byte 16) : (s.setV w).v = w := rfl
@[simp] theorem State.setV_i (w : Vector Byte 16) : (s.setV w).i = s.i := rfl
@[simp] theorem State.setV_pc (w : Vector Byte 16) : (s.setV w).pc = s.pc := rfl
@[simp] theorem State.setV_sp (w : Vector Byte 16) : (s.setV w).sp = s.sp := rfl
@[simp] theorem State.setV_stack (w : Vector Byte 16) : (s.setV w).stack = s.stack := rfl
@[simp] theorem State.setV_heap (w : Vector Byte 16) : (s.setV w).heap = s.heap := rfl
@[simp] theorem State.setV_dt (w : Vector Byte 16) : (s.setV w).dt = s.dt := rfl
@[simp] theorem State.setV_st (w : Vector Byte 16) : (s.setV w).st = s.st := rfl
@[simp] theorem State.setV_fb (w : Vector Byte 16) : (s.setV w).fb = s.fb := rfl
@[simp] theorem State.setV_keys (w : Vector Byte 16) : (s.setV w).keys = s.keys := rfl
@[simp] theorem State.setV_awaitingKeyRegister (w : Vector Byte 16) : (s.setV w).awaitingKeyRegister = s.awaitingKeyRegister := rfl
@[simp] theorem State.setV_keyWaitResolved (w : Vector Byte 16) : (s.setV w).keyWaitResolved = s.keyWaitResolved := rfl
@[simp] theorem State.setV_quirk (w : Vector Byte 16) : (s.setV w).quirk = s.quirk := rfl
@[simp] theorem State.setV_faulted (w : Vector Byte 16) : (s.setV w).faulted = s.faulted := rfl
@[simp] theorem State.setV_faultCause (w : Vector Byte 16) : (s.setV w).faultCause = s.faultCause := rfl
@[simp] theorem State.setV_faultInfo (w : Vector Byte 16) : (s.setV w).faultInfo = s.faultInfo := rfl
@[simp] theorem State.setV_rndDraws (w : Vector Byte 16) : (s.setV w).rndDraws = s.rndDraws := rfl
@[simp] theorem State.setV_readV (w : Vector Byte 16) (q : Nibble) : (s.setV w).readV q = w[q] := rfl
@[simp] theorem State.setV_memRead (w : Vector Byte 16) (z : Nat) : (s.setV w).memRead z = s.memRead z := rfl
@[simp] theorem State.setV_keyDown (w : Vector Byte 16) (q : Nibble) : (s.setV w).keyDown q = s.keyDown q := rfl
@[simp] theorem State.setV_fetchWord (w : Vector Byte 16) : (s.setV w).fetchWord = s.fetchWord := rfl

/-! ### writeV -/

@[simp] theorem State.writeV_v (r : Nibble) (b : Byte) : (s.writeV r b).v = s.v.set r b := rfl
@[simp] theorem State.writeV_i (r : Nibble) (b : Byte) : (s.writeV r b).i = s.i := rfl
@[simp] theorem State.writeV_pc (r : Nibble) (b : Byte) : (s.writeV r b).pc = s.pc := rfl
@[simp] theorem State.writeV_sp (r : Nibble) (b : Byte) : (s.writeV r b).sp = s.sp := rfl
@[simp] theorem State.writeV_stack (r : Nibble) (b : Byte) : (s.writeV r b).stack = s.stack := rfl
@[simp] theorem State.writeV_heap (r : Nibble) (b : Byte) : (s.writeV r b).heap = s.heap := rfl
@[simp] theorem State.writeV_dt (r : Nibble) (b : Byte) : (s.writeV r b).dt = s.dt := rfl
@[simp] theorem State.writeV_st (r : Nibble) (b : Byte) : (s.writeV r b).st = s.st := rfl
@[simp] theorem State.writeV_fb (r : Nibble) (b : Byte) : (s.writeV r b).fb = s.fb := rfl
@[simp] theorem State.writeV_keys (r : Nibble) (b : Byte) : (s.writeV r b).keys = s.keys := rfl
@[simp] theorem State.writeV_awaitingKeyRegister (r : Nibble) (b : Byte) : (s.writeV r b).awaitingKeyRegister = s.awaitingKeyRegister := rfl
@[simp] theorem State.writeV_keyWaitResolved (r : Nibble) (b : Byte) : (s.writeV r b).keyWaitResolved = s.keyWaitResolved := rfl
@[simp] theorem State.writeV_quirk (r : Nibble) (b : Byte) : (s.writeV r b).quirk = s.quirk := rfl
@[simp] theorem State.writeV_faulted (r : Nibble) (b : Byte) : (s.writeV r b).faulted = s.faulted := rfl
@[simp] theorem State.writeV_faultCause (r : Nibble) (b : Byte) : (s.writeV r b).faultCause = s.faultCause := rfl
@[simp] theorem State.writeV_faultInfo (r : Nibble) (b : Byte) : (s.writeV r b).faultInfo = s.faultInfo := rfl
@[simp] theorem State.writeV_rndDraws (r : Nibble) (b : Byte) : (s.writeV r b).rndDraws = s.rndDraws := rfl
@[simp] theorem State.writeV_memRead (r : Nibble) (b : Byte) (z : Nat) : (s.writeV r b).memRead z = s.memRead z := rfl
@[simp] theorem State.writeV_keyDown (r : Nibble) (b : Byte) (q : Nibble) : (s.writeV r b).keyDown q = s.keyDown q := rfl
@[simp] theorem State.writeV_fetchWord (r : Nibble) (b : Byte) : (s.writeV r b).fetchWord = s.fetchWord := rfl

/-! ### setI -/

@[simp] theorem State.setI_v (a : Word) : (s.setI a).v = s.v := rfl
@[simp] theorem State.setI_i (a : Word) : (s.setI a).i = a := rfl
@[simp] theorem State.setI_pc (a : Word) : (s.setI a).pc = s.pc := rfl
@[simp] theorem State.setI_sp (a : Word) : (s.setI a).sp = s.sp := rfl
@[simp] theorem State.setI_stack (a : Word) : (s.setI a).stack = s.stack := rfl
@[simp] theorem State.setI_heap (a : Word) : (s.setI a).heap = s.heap := rfl
@[simp] theorem State.setI_dt (a : Word) : (s.setI a).dt = s.dt := rfl
@[simp] theorem State.setI_st (a : Word) : (s.setI a).st = s.st := rfl
@[simp] theorem State.setI_fb (a : Word) : (s.setI a).fb = s.fb := rfl
@[simp] theorem State.setI_keys (a : Word) : (s.setI a).keys = s.keys := rfl
@[simp] theorem State.setI_awaitingKeyRegister (a : Word) : (s.setI a).awaitingKeyRegister = s.awaitingKeyRegister := rfl
@[simp] theorem State.setI_keyWaitResolved (a : Word) : (s.setI a).keyWaitResolved = s.keyWaitResolved := rfl
@[simp] theorem State.setI_quirk (a : Word) : (s.setI a).quirk = s.quirk := rfl
@[simp] theorem State.setI_faulted (a : Word) : (s.setI a).faulted = s.faulted := rfl
@[simp] theorem State.setI_faultCause (a : Word) : (s.setI a).faultCause = s.faultCause := rfl
@[simp] theorem State.setI_faultInfo (a : Word) : (s.setI a).faultInfo = s.faultInfo := rfl
@[simp] theorem State.setI_rndDraws (a : Word) : (s.setI a).rndDraws = s.rndDraws := rfl
@[simp] theorem State.setI_readV (a : Word) (q : Nibble) : (s.setI a).readV q = s.readV q := rfl
@[simp] theorem State.setI_memRead (a : Word) (z : Nat) : (s.setI a).memRead z = s.memRead z := rfl
@[simp] theorem State.setI_keyDown (a : Word) (q : Nibble) : (s.setI a).keyDown q = s.keyDown q := rfl
@[simp] theorem State.setI_fetchWord (a : Word) : (s.setI a).fetchWord = s.fetchWord := rfl

/-! ### setPc -/

@[simp] theorem State.setPc_v (a : Word) : (s.setPc a).v = s.v := rfl
@[simp] theorem State.setPc_i (a : Word) : (s.setPc a).i = s.i := rfl
@[simp] theorem State.setPc_pc (a : Word) : (s.setPc a).pc = a := rfl
@[simp] theorem State.setPc_sp (a : Word) : (s.setPc a).sp = s.sp := rfl
@[simp] theorem State.setPc_stack (a : Word) : (s.setPc a).stack = s.stack := rfl
@[simp] theorem State.setPc_heap (a : Word) : (s.setPc a).heap = s.heap := rfl
@[simp] theorem State.setPc_dt (a : Word) : (s.setPc a).dt = s.dt := rfl
@[simp] theorem State.setPc_st (a : Word) : (s.setPc a).st = s.st := rfl
@[simp] theorem State.setPc_fb (a : Word) : (s.setPc a).fb = s.fb := rfl
@[simp] theorem State.setPc_keys (a : Word) : (s.setPc a).keys = s.keys := rfl
@[simp] theorem State.setPc_awaitingKeyRegister (a : Word) : (s.setPc a).awaitingKeyRegister = s.awaitingKeyRegister := rfl
@[simp] theorem State.setPc_keyWaitResolved (a : Word) : (s.setPc a).keyWaitResolved = s.keyWaitResolved := rfl
@[simp] theorem State.setPc_quirk (a : Word) : (s.setPc a).quirk = s.quirk := rfl
@[simp] theorem State.setPc_faulted (a : Word) : (s.setPc a).faulted = s.faulted := rfl
@[simp] theorem State.setPc_faultCause (a : Word) : (s.setPc a).faultCause = s.faultCause := rfl
@[simp] theorem State.setPc_faultInfo (a : Word) : (s.setPc a).faultInfo = s.faultInfo := rfl
@[simp] theorem State.setPc_rndDraws (a : Word) : (s.setPc a).rndDraws = s.rndDraws := rfl
@[simp] theorem State.setPc_readV (a : Word) (q : Nibble) : (s.setPc a).readV q = s.readV q := rfl
@[simp] theorem State.setPc_memRead (a : Word) (z : Nat) : (s.setPc a).memRead z = s.memRead z := rfl
@[simp] theorem State.setPc_keyDown (a : Word) (q : Nibble) : (s.setPc a).keyDown q = s.keyDown q := rfl

/-! ### setCallStack -/

@[simp] theorem State.setCallStack_v (p : Fin 17) (k : Vector Word 16) : (s.setCallStack p k).v = s.v := rfl
@[simp] theorem State.setCallStack_i (p : Fin 17) (k : Vector Word 16) : (s.setCallStack p k).i = s.i := rfl
@[simp] theorem State.setCallStack_pc (p : Fin 17) (k : Vector Word 16) : (s.setCallStack p k).pc = s.pc := rfl
@[simp] theorem State.setCallStack_sp (p : Fin 17) (k : Vector Word 16) : (s.setCallStack p k).sp = p := rfl
@[simp] theorem State.setCallStack_stack (p : Fin 17) (k : Vector Word 16) : (s.setCallStack p k).stack = k := rfl
@[simp] theorem State.setCallStack_heap (p : Fin 17) (k : Vector Word 16) : (s.setCallStack p k).heap = s.heap := rfl
@[simp] theorem State.setCallStack_dt (p : Fin 17) (k : Vector Word 16) : (s.setCallStack p k).dt = s.dt := rfl
@[simp] theorem State.setCallStack_st (p : Fin 17) (k : Vector Word 16) : (s.setCallStack p k).st = s.st := rfl
@[simp] theorem State.setCallStack_fb (p : Fin 17) (k : Vector Word 16) : (s.setCallStack p k).fb = s.fb := rfl
@[simp] theorem State.setCallStack_keys (p : Fin 17) (k : Vector Word 16) : (s.setCallStack p k).keys = s.keys := rfl
@[simp] theorem State.setCallStack_awaitingKeyRegister (p : Fin 17) (k : Vector Word 16) : (s.setCallStack p k).awaitingKeyRegister = s.awaitingKeyRegister := rfl
@[simp] theorem State.setCallStack_keyWaitResolved (p : Fin 17) (k : Vector Word 16) : (s.setCallStack p k).keyWaitResolved = s.keyWaitResolved := rfl
@[simp] theorem State.setCallStack_quirk (p : Fin 17) (k : Vector Word 16) : (s.setCallStack p k).quirk = s.quirk := rfl
@[simp] theorem State.setCallStack_faulted (p : Fin 17) (k : Vector Word 16) : (s.setCallStack p k).faulted = s.faulted := rfl
@[simp] theorem State.setCallStack_faultCause (p : Fin 17) (k : Vector Word 16) : (s.setCallStack p k).faultCause = s.faultCause := rfl
@[simp] theorem State.setCallStack_faultInfo (p : Fin 17) (k : Vector Word 16) : (s.setCallStack p k).faultInfo = s.faultInfo := rfl
@[simp] theorem State.setCallStack_rndDraws (p : Fin 17) (k : Vector Word 16) : (s.setCallStack p k).rndDraws = s.rndDraws := rfl
@[simp] theorem State.setCallStack_readV (p : Fin 17) (k : Vector Word 16) (q : Nibble) : (s.setCallStack p k).readV q = s.readV q := rfl
@[simp] theorem State.setCallStack_memRead (p : Fin 17) (k : Vector Word 16) (z : Nat) : (s.setCallStack p k).memRead z = s.memRead z := rfl
@[simp] theorem State.setCallStack_keyDown (p : Fin 17) (k : Vector Word 16) (q : Nibble) : (s.setCallStack p k).keyDown q = s.keyDown q := rfl
@[simp] theorem State.setCallStack_fetchWord (p : Fin 17) (k : Vector Word 16) : (s.setCallStack p k).fetchWord = s.fetchWord := rfl

/-! ### setHeap -/

@[simp] theorem State.setHeap_v (m : Memory) : (s.setHeap m).v = s.v := rfl
@[simp] theorem State.setHeap_i (m : Memory) : (s.setHeap m).i = s.i := rfl
@[simp] theorem State.setHeap_pc (m : Memory) : (s.setHeap m).pc = s.pc := rfl
@[simp] theorem State.setHeap_sp (m : Memory) : (s.setHeap m).sp = s.sp := rfl
@[simp] theorem State.setHeap_stack (m : Memory) : (s.setHeap m).stack = s.stack := rfl
@[simp] theorem State.setHeap_heap (m : Memory) : (s.setHeap m).heap = m := rfl
@[simp] theorem State.setHeap_dt (m : Memory) : (s.setHeap m).dt = s.dt := rfl
@[simp] theorem State.setHeap_st (m : Memory) : (s.setHeap m).st = s.st := rfl
@[simp] theorem State.setHeap_fb (m : Memory) : (s.setHeap m).fb = s.fb := rfl
@[simp] theorem State.setHeap_keys (m : Memory) : (s.setHeap m).keys = s.keys := rfl
@[simp] theorem State.setHeap_awaitingKeyRegister (m : Memory) : (s.setHeap m).awaitingKeyRegister = s.awaitingKeyRegister := rfl
@[simp] theorem State.setHeap_keyWaitResolved (m : Memory) : (s.setHeap m).keyWaitResolved = s.keyWaitResolved := rfl
@[simp] theorem State.setHeap_quirk (m : Memory) : (s.setHeap m).quirk = s.quirk := rfl
@[simp] theorem State.setHeap_faulted (m : Memory) : (s.setHeap m).faulted = s.faulted := rfl
@[simp] theorem State.setHeap_faultCause (m : Memory) : (s.setHeap m).faultCause = s.faultCause := rfl
@[simp] theorem State.setHeap_faultInfo (m : Memory) : (s.setHeap m).faultInfo = s.faultInfo := rfl
@[simp] theorem State.setHeap_rndDraws (m : Memory) : (s.setHeap m).rndDraws = s.rndDraws := rfl
@[simp] theorem State.setHeap_readV (m : Memory) (q : Nibble) : (s.setHeap m).readV q = s.readV q := rfl
@[simp] theorem State.setHeap_memRead (m : Memory) (z : Nat) : (s.setHeap m).memRead z = m.read z := rfl
@[simp] theorem State.setHeap_keyDown (m : Memory) (q : Nibble) : (s.setHeap m).keyDown q = s.keyDown q := rfl

/-! ### setDt -/

@[simp] theorem State.setDt_v (b : Byte) : (s.setDt b).v = s.v := rfl
@[simp] theorem State.setDt_i (b : Byte) : (s.setDt b).i = s.i := rfl
@[simp] theorem State.setDt_pc (b : Byte) : (s.setDt b).pc = s.pc := rfl
@[simp] theorem State.setDt_sp (b : Byte) : (s.setDt b).sp = s.sp := rfl
@[simp] theorem State.setDt_stack (b : Byte) : (s.setDt b).stack = s.stack := rfl
@[simp] theorem State.setDt_heap (b : Byte) : (s.setDt b).heap = s.heap := rfl
@[simp] theorem State.setDt_dt (b : Byte) : (s.setDt b).dt = b := rfl
@[simp] theorem State.setDt_st (b : Byte) : (s.setDt b).st = s.st := rfl
@[simp] theorem State.setDt_fb (b : Byte) : (s.setDt b).fb = s.fb := rfl
@[simp] theorem State.setDt_keys (b : Byte) : (s.setDt b).keys = s.keys := rfl
@[simp] theorem State.setDt_awaitingKeyRegister (b : Byte) : (s.setDt b).awaitingKeyRegister = s.awaitingKeyRegister := rfl
@[simp] theorem State.setDt_keyWaitResolved (b : Byte) : (s.setDt b).keyWaitResolved = s.keyWaitResolved := rfl
@[simp] theorem State.setDt_quirk (b : Byte) : (s.setDt b).quirk = s.quirk := rfl
@[simp] theorem State.setDt_faulted (b : Byte) : (s.setDt b).faulted = s.faulted := rfl
@[simp] theorem State.setDt_faultCause (b : Byte) : (s.setDt b).faultCause = s.faultCause := rfl
@[simp] theorem State.setDt_faultInfo (b : Byte) : (s.setDt b).faultInfo = s.faultInfo := rfl
@[simp] theorem State.setDt_rndDraws (b : Byte) : (s.setDt b).rndDraws = s.rndDraws := rfl
@[simp] theorem State.setDt_readV (b : Byte) (q : Nibble) : (s.setDt b).readV q = s.readV q := rfl
@[simp] theorem State.setDt_memRead (b : Byte) (z : Nat) : (s.setDt b).memRead z = s.memRead z := rfl
@[simp] theorem State.setDt_keyDown (b : Byte) (q : Nibble) : (s.setDt b).keyDown q = s.keyDown q := rfl
@[simp] theorem State.setDt_fetchWord (b : Byte) : (s.setDt b).fetchWord = s.fetchWord := rfl

/-! ### setSt -/

@[simp] theorem State.setSt_v (b : Byte) : (s.setSt b).v = s.v := rfl
@[simp] theorem State.setSt_i (b : Byte) : (s.setSt b).i = s.i := rfl
@[simp] theorem State.setSt_pc (b : Byte) : (s.setSt b).pc = s.pc := rfl
@[simp] theorem State.setSt_sp (b : Byte) : (s.setSt b).sp = s.sp := rfl
@[simp] theorem State.setSt_stack (b : Byte) : (s.setSt b).stack = s.stack := rfl
@[simp] theorem State.setSt_heap (b : Byte) : (s.setSt b).heap = s.heap := rfl
@[simp] theorem State.setSt_dt (b : Byte) : (s.setSt b).dt = s.dt := rfl
@[simp] theorem State.setSt_st (b : Byte) : (s.setSt b).st = b := rfl
@[simp] theorem State.setSt_fb (b : Byte) : (s.setSt b).fb = s.fb := rfl
@[simp] theorem State.setSt_keys (b : Byte) : (s.setSt b).keys = s.keys := rfl
@[simp] theorem State.setSt_awaitingKeyRegister (b : Byte) : (s.setSt b).awaitingKeyRegister = s.awaitingKeyRegister := rfl
@[simp] theorem State.setSt_keyWaitResolved (b : Byte) : (s.setSt b).keyWaitResolved = s.keyWaitResolved := rfl
@[simp] theorem State.setSt_quirk (b : Byte) : (s.setSt b).quirk = s.quirk := rfl
@[simp] theorem State.setSt_faulted (b : Byte) : (s.setSt b).faulted = s.faulted := rfl
@[simp] theorem State.setSt_faultCause (b : Byte) : (s.setSt b).faultCause = s.faultCause := rfl
@[simp] theorem State.setSt_faultInfo (b : Byte) : (s.setSt b).faultInfo = s.faultInfo := rfl
@[simp] theorem State.setSt_rndDraws (b : Byte) : (s.setSt b).rndDraws = s.rndDraws := rfl
@[simp] theorem State.setSt_readV (b : Byte) (q : Nibble) : (s.setSt b).readV q = s.readV q := rfl
@[simp] theorem State.setSt_memRead (b : Byte) (z : Nat) : (s.setSt b).memRead z = s.memRead z := rfl
@[simp] theorem State.setSt_keyDown (b : Byte) (q : Nibble) : (s.setSt b).keyDown q = s.keyDown q := rfl
@[simp] theorem State.setSt_fetchWord (b : Byte) : (s.setSt b).fetchWord = s.fetchWord := rfl

/-! ### setFb -/

@[simp] theorem State.setFb_v (g : Framebuffer) : (s.setFb g).v = s.v := rfl
@[simp] theorem State.setFb_i (g : Framebuffer) : (s.setFb g).i = s.i := rfl
@[simp] theorem State.setFb_pc (g : Framebuffer) : (s.setFb g).pc = s.pc := rfl
@[simp] theorem State.setFb_sp (g : Framebuffer) : (s.setFb g).sp = s.sp := rfl
@[simp] theorem State.setFb_stack (g : Framebuffer) : (s.setFb g).stack = s.stack := rfl
@[simp] theorem State.setFb_heap (g : Framebuffer) : (s.setFb g).heap = s.heap := rfl
@[simp] theorem State.setFb_dt (g : Framebuffer) : (s.setFb g).dt = s.dt := rfl
@[simp] theorem State.setFb_st (g : Framebuffer) : (s.setFb g).st = s.st := rfl
@[simp] theorem State.setFb_fb (g : Framebuffer) : (s.setFb g).fb = g := rfl
@[simp] theorem State.setFb_keys (g : Framebuffer) : (s.setFb g).keys = s.keys := rfl
@[simp] theorem State.setFb_awaitingKeyRegister (g : Framebuffer) : (s.setFb g).awaitingKeyRegister = s.awaitingKeyRegister := rfl
@[simp] theorem State.setFb_keyWaitResolved (g : Framebuffer) : (s.setFb g).keyWaitResolved = s.keyWaitResolved := rfl
@[simp] theorem State.setFb_quirk (g : Framebuffer) : (s.setFb g).quirk = s.quirk := rfl
@[simp] theorem State.setFb_faulted (g : Framebuffer) : (s.setFb g).faulted = s.faulted := rfl
@[simp] theorem State.setFb_faultCause (g : Framebuffer) : (s.setFb g).faultCause = s.faultCause := rfl
@[simp] theorem State.setFb_faultInfo (g : Framebuffer) : (s.setFb g).faultInfo = s.faultInfo := rfl
@[simp] theorem State.setFb_rndDraws (g : Framebuffer) : (s.setFb g).rndDraws = s.rndDraws := rfl
@[simp] theorem State.setFb_readV (g : Framebuffer) (q : Nibble) : (s.setFb g).readV q = s.readV q := rfl
@[simp] theorem State.setFb_memRead (g : Framebuffer) (z : Nat) : (s.setFb g).memRead z = s.memRead z := rfl
@[simp] theorem State.setFb_keyDown (g : Framebuffer) (q : Nibble) : (s.setFb g).keyDown q = s.keyDown q := rfl
@[simp] theorem State.setFb_fetchWord (g : Framebuffer) : (s.setFb g).fetchWord = s.fetchWord := rfl

/-! ### setKeys -/

@[simp] theorem State.setKeys_v (k : Vector Bool 16) : (s.setKeys k).v = s.v := rfl
@[simp] theorem State.setKeys_i (k : Vector Bool 16) : (s.setKeys k).i = s.i := rfl
@[simp] theorem State.setKeys_pc (k : Vector Bool 16) : (s.setKeys k).pc = s.pc := rfl
@[simp] theorem State.setKeys_sp (k : Vector Bool 16) : (s.setKeys k).sp = s.sp := rfl
@[simp] theorem State.setKeys_stack (k : Vector Bool 16) : (s.setKeys k).stack = s.stack := rfl
@[simp] theorem State.setKeys_heap (k : Vector Bool 16) : (s.setKeys k).heap = s.heap := rfl
@[simp] theorem State.setKeys_dt (k : Vector Bool 16) : (s.setKeys k).dt = s.dt := rfl
@[simp] theorem State.setKeys_st (k : Vector Bool 16) : (s.setKeys k).st = s.st := rfl
@[simp] theorem State.setKeys_fb (k : Vector Bool 16) : (s.setKeys k).fb = s.fb := rfl
@[simp] theorem State.setKeys_keys (k : Vector Bool 16) : (s.setKeys k).keys = k := rfl
@[simp] theorem State.setKeys_awaitingKeyRegister (k : Vector Bool 16) : (s.setKeys k).awaitingKeyRegister = s.awaitingKeyRegister := rfl
@[simp] theorem State.setKeys_keyWaitResolved (k : Vector Bool 16) : (s.setKeys k).keyWaitResolved = s.keyWaitResolved := rfl
@[simp] theorem State.setKeys_quirk (k : Vector Bool 16) : (s.setKeys k).quirk = s.quirk := rfl
@[simp] theorem State.setKeys_faulted (k : Vector Bool 16) : (s.setKeys k).faulted = s.faulted := rfl
@[simp] theorem State.setKeys_faultCause (k : Vector Bool 16) : (s.setKeys k).faultCause = s.faultCause := rfl
@[simp] theorem State.setKeys_faultInfo (k : Vector Bool 16) : (s.setKeys k).faultInfo = s.faultInfo := rfl
@[simp] theorem State.setKeys_rndDraws (k : Vector Bool 16) : (s.setKeys k).rndDraws = s.rndDraws := rfl
@[simp] theorem State.setKeys_readV (k : Vector Bool 16) (q : Nibble) : (s.setKeys k).readV q = s.readV q := rfl
@[simp] theorem State.setKeys_memRead (k : Vector Bool 16) (z : Nat) : (s.setKeys k).memRead z = s.memRead z := rfl
@[simp] theorem State.setKeys_keyDown (k : Vector Bool 16) (q : Nibble) : (s.setKeys k).keyDown q = k[q] := rfl
@[simp] theorem State.setKeys_fetchWord (k : Vector Bool 16) : (s.setKeys k).fetchWord = s.fetchWord := rfl

/-! ### setKeyWait -/

@[simp] theorem State.setKeyWait_v (r : Option Nibble) (d : Bool) : (s.setKeyWait r d).v = s.v := rfl
@[simp] theorem State.setKeyWait_i (r : Option Nibble) (d : Bool) : (s.setKeyWait r d).i = s.i := rfl
@[simp] theorem State.setKeyWait_pc (r : Option Nibble) (d : Bool) : (s.setKeyWait r d).pc = s.pc := rfl
@[simp] theorem State.setKeyWait_sp (r : Option Nibble) (d : Bool) : (s.setKeyWait r d).sp = s.sp := rfl
@[simp] theorem State.setKeyWait_stack (r : Option Nibble) (d : Bool) : (s.setKeyWait r d).stack = s.stack := rfl
@[simp] theorem State.setKeyWait_heap (r : Option Nibble) (d : Bool) : (s.setKeyWait r d).heap = s.heap := rfl
@[simp] theorem State.setKeyWait_dt (r : Option Nibble) (d : Bool) : (s.setKeyWait r d).dt = s.dt := rfl
@[simp] theorem State.setKeyWait_st (r : Option Nibble) (d : Bool) : (s.setKeyWait r d).st = s.st := rfl
@[simp] theorem State.setKeyWait_fb (r : Option Nibble) (d : Bool) : (s.setKeyWait r d).fb = s.fb := rfl
@[simp] theorem State.setKeyWait_keys (r : Option Nibble) (d : Bool) : (s.setKeyWait r d).keys = s.keys := rfl
@[simp] theorem State.setKeyWait_awaitingKeyRegister (r : Option Nibble) (d : Bool) : (s.setKeyWait r d).awaitingKeyRegister = r := rfl
@[simp] theorem State.setKeyWait_keyWaitResolved (r : Option Nibble) (d : Bool) : (s.setKeyWait r d).keyWaitResolved = d := rfl
@[simp] theorem State.setKeyWait_quirk (r : Option Nibble) (d : Bool) : (s.setKeyWait r d).quirk = s.quirk := rfl
@[simp] theorem State.setKeyWait_faulted (r : Option Nibble) (d : Bool) : (s.setKeyWait r d).faulted = s.faulted := rfl
@[simp] theorem State.setKeyWait_faultCause (r : Option Nibble) (d : Bool) : (s.setKeyWait r d).faultCause = s.faultCause := rfl
@[simp] theorem State.setKeyWait_faultInfo (r : Option Nibble) (d : Bool) : (s.setKeyWait r d).faultInfo = s.faultInfo := rfl
@[simp] theorem State.setKeyWait_rndDraws (r : Option Nibble) (d : Bool) : (s.setKeyWait r d).rndDraws = s.rndDraws := rfl
@[simp] theorem State.setKeyWait_readV (r : Option Nibble) (d : Bool) (q : Nibble) : (s.setKeyWait r d).readV q = s.readV q := rfl
@[simp] theorem State.setKeyWait_memRead (r : Option Nibble) (d : Bool) (z : Nat) : (s.setKeyWait r d).memRead z = s.memRead z := rfl
@[simp] theorem State.setKeyWait_keyDown (r : Option Nibble) (d : Bool) (q : Nibble) : (s.setKeyWait r d).keyDown q = s.keyDown q := rfl
@[simp] theorem State.setKeyWait_fetchWord (r : Option Nibble) (d : Bool) : (s.setKeyWait r d).fetchWord = s.fetchWord := rfl

/-! ### setLatch -/

@[simp] theorem State.setLatch_v (c : BitVec 3) (n : Word) : (s.setLatch c n).v = s.v := rfl
@[simp] theorem State.setLatch_i (c : BitVec 3) (n : Word) : (s.setLatch c n).i = s.i := rfl
@[simp] theorem State.setLatch_pc (c : BitVec 3) (n : Word) : (s.setLatch c n).pc = s.pc := rfl
@[simp] theorem State.setLatch_sp (c : BitVec 3) (n : Word) : (s.setLatch c n).sp = s.sp := rfl
@[simp] theorem State.setLatch_stack (c : BitVec 3) (n : Word) : (s.setLatch c n).stack = s.stack := rfl
@[simp] theorem State.setLatch_heap (c : BitVec 3) (n : Word) : (s.setLatch c n).heap = s.heap := rfl
@[simp] theorem State.setLatch_dt (c : BitVec 3) (n : Word) : (s.setLatch c n).dt = s.dt := rfl
@[simp] theorem State.setLatch_st (c : BitVec 3) (n : Word) : (s.setLatch c n).st = s.st := rfl
@[simp] theorem State.setLatch_fb (c : BitVec 3) (n : Word) : (s.setLatch c n).fb = s.fb := rfl
@[simp] theorem State.setLatch_keys (c : BitVec 3) (n : Word) : (s.setLatch c n).keys = s.keys := rfl
@[simp] theorem State.setLatch_awaitingKeyRegister (c : BitVec 3) (n : Word) : (s.setLatch c n).awaitingKeyRegister = s.awaitingKeyRegister := rfl
@[simp] theorem State.setLatch_keyWaitResolved (c : BitVec 3) (n : Word) : (s.setLatch c n).keyWaitResolved = s.keyWaitResolved := rfl
@[simp] theorem State.setLatch_quirk (c : BitVec 3) (n : Word) : (s.setLatch c n).quirk = s.quirk := rfl
@[simp] theorem State.setLatch_faulted (c : BitVec 3) (n : Word) : (s.setLatch c n).faulted = true := rfl
@[simp] theorem State.setLatch_faultCause (c : BitVec 3) (n : Word) : (s.setLatch c n).faultCause = c := rfl
@[simp] theorem State.setLatch_faultInfo (c : BitVec 3) (n : Word) : (s.setLatch c n).faultInfo = n := rfl
@[simp] theorem State.setLatch_rndDraws (c : BitVec 3) (n : Word) : (s.setLatch c n).rndDraws = s.rndDraws := rfl
@[simp] theorem State.setLatch_readV (c : BitVec 3) (n : Word) (q : Nibble) : (s.setLatch c n).readV q = s.readV q := rfl
@[simp] theorem State.setLatch_memRead (c : BitVec 3) (n : Word) (z : Nat) : (s.setLatch c n).memRead z = s.memRead z := rfl
@[simp] theorem State.setLatch_keyDown (c : BitVec 3) (n : Word) (q : Nibble) : (s.setLatch c n).keyDown q = s.keyDown q := rfl
@[simp] theorem State.setLatch_fetchWord (c : BitVec 3) (n : Word) : (s.setLatch c n).fetchWord = s.fetchWord := rfl

/-! ### setDraws -/

@[simp] theorem State.setDraws_v (k : Nat) : (s.setDraws k).v = s.v := rfl
@[simp] theorem State.setDraws_i (k : Nat) : (s.setDraws k).i = s.i := rfl
@[simp] theorem State.setDraws_pc (k : Nat) : (s.setDraws k).pc = s.pc := rfl
@[simp] theorem State.setDraws_sp (k : Nat) : (s.setDraws k).sp = s.sp := rfl
@[simp] theorem State.setDraws_stack (k : Nat) : (s.setDraws k).stack = s.stack := rfl
@[simp] theorem State.setDraws_heap (k : Nat) : (s.setDraws k).heap = s.heap := rfl
@[simp] theorem State.setDraws_dt (k : Nat) : (s.setDraws k).dt = s.dt := rfl
@[simp] theorem State.setDraws_st (k : Nat) : (s.setDraws k).st = s.st := rfl
@[simp] theorem State.setDraws_fb (k : Nat) : (s.setDraws k).fb = s.fb := rfl
@[simp] theorem State.setDraws_keys (k : Nat) : (s.setDraws k).keys = s.keys := rfl
@[simp] theorem State.setDraws_awaitingKeyRegister (k : Nat) : (s.setDraws k).awaitingKeyRegister = s.awaitingKeyRegister := rfl
@[simp] theorem State.setDraws_keyWaitResolved (k : Nat) : (s.setDraws k).keyWaitResolved = s.keyWaitResolved := rfl
@[simp] theorem State.setDraws_quirk (k : Nat) : (s.setDraws k).quirk = s.quirk := rfl
@[simp] theorem State.setDraws_faulted (k : Nat) : (s.setDraws k).faulted = s.faulted := rfl
@[simp] theorem State.setDraws_faultCause (k : Nat) : (s.setDraws k).faultCause = s.faultCause := rfl
@[simp] theorem State.setDraws_faultInfo (k : Nat) : (s.setDraws k).faultInfo = s.faultInfo := rfl
@[simp] theorem State.setDraws_rndDraws (k : Nat) : (s.setDraws k).rndDraws = k := rfl
@[simp] theorem State.setDraws_readV (k : Nat) (q : Nibble) : (s.setDraws k).readV q = s.readV q := rfl
@[simp] theorem State.setDraws_memRead (k : Nat) (z : Nat) : (s.setDraws k).memRead z = s.memRead z := rfl
@[simp] theorem State.setDraws_keyDown (k : Nat) (q : Nibble) : (s.setDraws k).keyDown q = s.keyDown q := rfl
@[simp] theorem State.setDraws_fetchWord (k : Nat) : (s.setDraws k).fetchWord = s.fetchWord := rfl

/-! ### The shared operations as updates -/

@[simp] theorem vf_eq : vf = 15 := rfl
@[simp] theorem State.advance_eq : s.advance = s.setPc (s.pc + 2) := rfl
@[simp] theorem State.rewind_eq : s.rewind = s.setPc (s.pc - 2) := rfl
@[simp] theorem State.skipIf_eq (c : Bool) : s.skipIf c = s.setPc (if c then s.pc + 2 else s.pc) := by
  cases c <;> rfl
@[simp] theorem State.setFlag_eq (c : Bool) : s.setFlag c = s.writeV 15 (flagByte c) := rfl
@[simp] theorem State.writeVFlag_eq (x : Nibble) (b : Byte) (c : Bool) :
    s.writeVFlag x b c = (s.writeV x b).writeV 15 (flagByte c) := rfl
@[simp] theorem State.maskRandom_eq (r : Byte) (x : Nibble) (nn : Byte) : s.maskRandom r x nn = s.writeV x (r &&& nn) := rfl
@[simp] theorem State.memWrite_eq (a : Nat) (bs : List Byte) : s.memWrite a bs = s.setHeap (s.heap.writeBytes a bs) := rfl
@[simp] theorem State.drawn_eq : s.drawn = s.setDraws (s.rndDraws + 1) := rfl
@[simp] theorem State.setKey_eq (k : Nibble) (b : Bool) : s.setKey k b = s.setKeys (s.keys.set k b) := rfl
@[simp] theorem State.bumpIndex_eq (x : Nibble) :
    s.bumpIndex x = s.setI (if s.quirk.tempIndex then s.i else s.i + BitVec.ofNat 16 (x.val + 1)) := by
  unfold State.bumpIndex; split <;> rfl
@[simp] theorem State.raise_eq (f : Fault) : s.raise f = s.setLatch f.code f.info := rfl
@[simp] theorem State.setPc_setPc (a b : Word) : (s.setPc a).setPc b = s.setPc b := rfl
@[simp] theorem State.setPc_self : s.setPc s.pc = s := rfl

/-- Adding 2 twice, as a taken skip does. -/
theorem add_two_two (p : Word) : p + 2 + 2 = p + 4 := by rw [BitVec.add_assoc]; rfl

/-- A state's heap, read. -/
theorem State.heap_read (a : Nat) : s.heap.read a = s.memRead a := rfl

end Sys2Proof.Machine

namespace Sys2Proof

open Sys2Proof.Machine

/-! ### Frames -/

theorem Part.same_refl (p : Part) (s : State) : p.same s s := by cases p <;> simp [Part.same]

theorem Part.same_trans {p : Part} {s t u : State} (h : p.same s t) (k : p.same t u) : p.same s u := by
  cases p <;> simp_all [Part.same]

theorem SameExcept.refl (ps : List Part) (s : State) : SameExcept ps s s := fun p _ => p.same_refl s

theorem SameExcept.trans {ps : List Part} {s t u : State} (h : SameExcept ps s t) (k : SameExcept ps t u) :
    SameExcept ps s u := fun p hp => Part.same_trans (h p hp) (k p hp)

theorem SameExcept.mono {ps qs : List Part} {s t : State} (h : SameExcept ps s t) (sub : ∀ p ∈ ps, p ∈ qs) :
    SameExcept qs s t := fun p hp => h p fun m => hp (sub p m)

theorem SameExcept.of_setV (s : State) (w : Vector Byte 16) : SameExcept [.regs] s (s.setV w) := by
  intro p hp; cases p <;> simp_all [Part.same]

theorem SameExcept.of_writeV (s : State) (r : Nibble) (b : Byte) : SameExcept [.regs] s (s.writeV r b) := by
  intro p hp; cases p <;> simp_all [Part.same]

theorem SameExcept.of_setI (s : State) (a : Word) : SameExcept [.index] s (s.setI a) := by
  intro p hp; cases p <;> simp_all [Part.same]

theorem SameExcept.of_setPc (s : State) (a : Word) : SameExcept [.pc] s (s.setPc a) := by
  intro p hp; cases p <;> simp_all [Part.same]

theorem SameExcept.of_setCallStack (s : State) (p : Fin 17) (k : Vector Word 16) : SameExcept [.callStack] s (s.setCallStack p k) := by
  intro p hp; cases p <;> simp_all [Part.same]

theorem SameExcept.of_setHeap (s : State) (m : Memory) : SameExcept [.heap] s (s.setHeap m) := by
  intro p hp; cases p <;> simp_all [Part.same]

theorem SameExcept.of_setDt (s : State) (b : Byte) : SameExcept [.delayTimer] s (s.setDt b) := by
  intro p hp; cases p <;> simp_all [Part.same]

theorem SameExcept.of_setSt (s : State) (b : Byte) : SameExcept [.soundTimer] s (s.setSt b) := by
  intro p hp; cases p <;> simp_all [Part.same]

theorem SameExcept.of_setFb (s : State) (g : Framebuffer) : SameExcept [.framebuffer] s (s.setFb g) := by
  intro p hp; cases p <;> simp_all [Part.same]

theorem SameExcept.of_setKeys (s : State) (k : Vector Bool 16) : SameExcept [.keys] s (s.setKeys k) := by
  intro p hp; cases p <;> simp_all [Part.same]

theorem SameExcept.of_setKeyWait (s : State) (r : Option Nibble) (d : Bool) : SameExcept [.keyWait] s (s.setKeyWait r d) := by
  intro p hp; cases p <;> simp_all [Part.same]

theorem SameExcept.of_setLatch (s : State) (c : BitVec 3) (n : Word) : SameExcept [.latch] s (s.setLatch c n) := by
  intro p hp; cases p <;> simp_all [Part.same]

theorem SameExcept.of_setDraws (s : State) (k : Nat) : SameExcept [.draws] s (s.setDraws k) := by
  intro p hp; cases p <;> simp_all [Part.same]

/-- A raised fault is a recorded one (R161). -/
theorem latched_raise (s : State) (f : Fault) : Latched f.code f.info s (s.raise f) :=
  ⟨rfl, rfl, rfl, SameExcept.of_setLatch s f.code f.info⟩

end Sys2Proof
end

