-- ==== Sys2Proof/Laws/Registers.lean ====
section
/-! SUPPORT. Register file, key bits, call stack and framebuffer: a read after a write (spec 10_state.md R10, R14, R17, R18). -/

namespace Sys2Proof.Machine

/-- A vector of sixteen indexed by a nibble: the entry written, and every other as before. -/
theorem get_set_nibble {α : Type} (v : Vector α 16) (r q : Nibble) (b : α) :
    (v.set r b)[q] = if q = r then b else v[q] := by
  simp only [Fin.getElem_fin, Vector.getElem_set, Fin.ext_iff]
  split <;> rename_i h
  · simp [h]
  · have : ¬ q.val = r.val := fun e => h e.symm
    simp [this]

/-- The entry at a nibble of a vector given by its entries. -/
theorem get_ofFn_nibble {α : Type} (f : Nibble → α) (q : Nibble) : (Vector.ofFn f)[q] = f q := by
  simp [Fin.getElem_fin]

/-- The register written, and every other as before (R10). -/
@[simp] theorem readV_writeV (s : State) (r q : Nibble) (b : Byte) :
    (s.writeV r b).readV q = if q = r then b else s.readV q := get_set_nibble s.v r q b

/-- The key bit written, and every other as before (R18). -/
theorem keyDown_setKey (s : State) (k q : Nibble) (b : Bool) :
    (s.setKey k b).keyDown q = if q = k then b else s.keyDown q := get_set_nibble s.keys k q b

/-- A flagged result: VF holds the flag, x (when it is not VF) the result, every other register as before (R112). -/
theorem readV_writeVFlag (s : State) (x q : Nibble) (b : Byte) (c : Bool) :
    (s.writeVFlag x b c).readV q = if q = 15 then flagByte c else if q = x then b else s.readV q := by
  simp

/-- The registers after a block load (R125). -/
theorem readV_loadRegs (s : State) (a : Nat) (x q : Nibble) :
    (s.loadRegs a x).readV q = if q.val ≤ x.val then s.memRead (a + q.val) else s.readV q :=
  get_ofFn_nibble _ q

theorem RegsSameExcept_writeV (s : State) (r : Nibble) (b : Byte) : RegsSameExcept [r] s (s.writeV r b) := by
  intro q hq
  rw [readV_writeV, if_neg (by simpa using hq)]

/-- A register file update written as a vector update. -/
theorem State.setV_set (s : State) (r : Nibble) (b : Byte) : s.setV (s.v.set r b) = s.writeV r b := rfl

/-- The bytes of a block store, by number (R124). -/
theorem getD_regsUpTo (s : State) (x r : Nibble) (d : Byte) :
    (s.regsUpTo x).getD r.val d = if r.val ≤ x.val then s.readV r else d := by
  unfold State.regsUpTo
  by_cases h : r.val ≤ x.val
  · have h1 : r.val < x.val + 1 := by omega
    simp [h, List.getD_eq_getElem?_getD, h1, State.readV]
  · have h1 : ¬ r.val < x.val + 1 := by omega
    simp [h, List.getD_eq_getElem?_getD, h1]

theorem length_regsUpTo (s : State) (x : Nibble) : (s.regsUpTo x).length = x.val + 1 := by
  have := x.isLt
  simp only [State.regsUpTo, List.length_take, Vector.length_toList]
  omega

/-- The cell toggled, and every other as before (R136). -/
theorem Framebuffer.cell_toggle (g : Framebuffer) (cx qx : Fin 64) (cy qy : Fin 32) :
    (g.toggle cx cy).cell qx qy = if qx = cx ∧ qy = cy then !g.cell qx qy else g.cell qx qy := by
  simp only [Framebuffer.cell, Framebuffer.toggle, Fin.getElem_fin, Vector.getElem_set, Fin.ext_iff]
  by_cases hy : cy.val = qy.val
  · by_cases hx : cx.val = qx.val
    · simp [hy, hx]
    · have : ¬ qx.val = cx.val := fun e => hx e.symm
      simp [hy, hx, this]
  · have : ¬ qy.val = cy.val := fun e => hy e.symm
    simp [hy, this]

/-- Every cell of the blank screen is dark (R135). -/
theorem Framebuffer.cell_blank (cx : Fin 64) (cy : Fin 32) : Framebuffer.blank.cell cx cy = false := by
  simp [Framebuffer.cell, Framebuffer.blank]

/-- Two framebuffers with the same cells are the same data. -/
theorem Framebuffer.ext_cell {g g' : Framebuffer} (h : ∀ cx cy, g.cell cx cy = g'.cell cx cy) : g = g' := by
  apply Vector.ext
  intro y hy
  apply Vector.ext
  intro x hx
  exact h ⟨x, hx⟩ ⟨y, hy⟩

/-- CALL's push, below the limit: SP one more, the entry holds PC, every other entry as before (R83). -/
theorem pushPc_spec (s : State) (h : s.sp.val < 16) :
    s.pushPc.sp.val = s.sp.val + 1 ∧
      ∀ k : Nibble, s.pushPc.stack[k] = if k.val = s.sp.val then s.pc else s.stack[k] := by
  have hs : (Fin.ofNat 16 s.sp.val).val = s.sp.val := Nat.mod_eq_of_lt h
  refine ⟨Nat.mod_eq_of_lt (by omega), fun k => ?_⟩
  show (s.stack.set (Fin.ofNat 16 s.sp.val) s.pc)[k] = _
  rw [get_set_nibble]
  simp only [Fin.ext_iff, hs]

/-- RET's pop, above the limit: SP one less, PC is the entry, that entry is 0, every other entry as before (R81). -/
theorem popPc_spec (s : State) (h : 0 < s.sp.val) :
    s.popPc.sp.val = s.sp.val - 1 ∧
      (∀ k : Nibble, s.popPc.stack[k] = if k.val + 1 = s.sp.val then 0 else s.stack[k]) ∧
      ∀ k : Nibble, k.val + 1 = s.sp.val → s.popPc.pc = s.stack[k] := by
  have lt := s.sp.isLt
  have hs : (Fin.ofNat 16 (s.sp.val - 1)).val = s.sp.val - 1 := Nat.mod_eq_of_lt (by omega)
  refine ⟨Nat.mod_eq_of_lt (by omega), fun k => ?_, fun k hk => ?_⟩
  · show (s.stack.set (Fin.ofNat 16 (s.sp.val - 1)) 0)[k] = _
    rw [get_set_nibble]
    have : (k = Fin.ofNat 16 (s.sp.val - 1)) ↔ k.val + 1 = s.sp.val := by
      rw [Fin.ext_iff, hs]; omega
    simp only [this]
  · have : k = Fin.ofNat 16 (s.sp.val - 1) := by rw [Fin.ext_iff, hs]; omega
    subst this
    rfl

end Sys2Proof.Machine
end

