-- ==== Sys2Proof/Laws/Flags.lean ====
section
/-! SUPPORT. The flag byte and each flag computation as numbers (spec 10_state.md R11; 41_alu.md R106 to R110, R113). -/

namespace Sys2Proof.Machine

theorem flagByte_carryOut (a b : Byte) : flagByte (carryOut a b) = if 255 < a.toNat + b.toNat then 1 else 0 := by
  by_cases h : 255 < a.toNat + b.toNat <;> simp [flagByte, carryOut, h]

theorem flagByte_notBorrow (a b : Byte) : flagByte (notBorrow a b) = if a.toNat < b.toNat then 0 else 1 := by
  by_cases h : a.toNat < b.toNat
  · have : ¬ b.toNat ≤ a.toNat := by omega
    simp [flagByte, notBorrow, h, this]
  · have : b.toNat ≤ a.toNat := by omega
    simp [flagByte, notBorrow, h, this]

theorem toNat_flagByte (c : Bool) : (flagByte c).toNat = c.toNat := by cases c <;> rfl

theorem toNat_flag_lowBitOut (t : Byte) : (flagByte (lowBitOut t)).toNat = t.toNat % 2 := by
  rw [toNat_flagByte, lowBitOut, BitVec.getLsbD, Nat.testBit_zero]
  rcases Nat.mod_two_eq_zero_or_one t.toNat with h | h <;> simp [h]

theorem toNat_flag_highBitOut (t : Byte) : (flagByte (highBitOut t)).toNat = t.toNat / 128 := by
  have := t.isLt
  rw [toNat_flagByte, highBitOut, BitVec.getLsbD, Nat.testBit_eq_decide_div_mod_eq]
  by_cases h : t.toNat / 2 ^ 7 % 2 = 1
  · simp only [h, decide_true, Bool.toNat_true]; omega
  · simp only [h, decide_false, Bool.toNat_false]; omega

/-- Every flag is the whole byte 0 or 1 (R11). -/
theorem flagByte_cases (c : Bool) : flagByte c = 0 ∨ flagByte c = 1 := by cases c <;> simp [flagByte]

end Sys2Proof.Machine
end

