-- ==== Sys2Proof/Laws/Heap.lean ====
section
/-! SUPPORT. The heap: a read after a write, the canonical form, and what a run of bytes does (spec 20_memory.md R46, R48). -/

namespace Sys2Proof.Machine

theorem Memory.read_consCell (a : Nat) (b : Byte) (m : Memory) (c : Nat) (h : m.read a = 0) :
    (Memory.consCell a b m).read c = if a = c then b else m.read c := by
  unfold Memory.consCell
  split
  · rename_i hb; split
    · rename_i hc; rw [← hc, h, hb]
    · rfl
  · rfl

/-- A heap whose addresses all lie at `low` or above reads 0 below it. -/
theorem Memory.read_below {low : Nat} {m : Memory} (h : Memory.wfFrom low m = true) {a : Nat} (ha : a < low) :
    m.read a = 0 := by
  induction m generalizing low with
  | nil => rfl
  | cons c m ih =>
    obtain ⟨k, b⟩ := c
    simp only [Memory.wfFrom, Bool.and_eq_true, decide_eq_true_eq] at h
    have hk : k ≠ a := by omega
    simp only [Memory.read, hk, if_false]
    exact ih h.2 (by omega)

/-- In the canonical form a read after a write gives the value written, and every other byte is as before (R46, R48). -/
theorem Memory.read_write {low : Nat} {m : Memory} (h : Memory.wfFrom low m = true) (a : Nat) (b : Byte) (c : Nat) :
    (m.write a b).read c = if a = c then b else m.read c := by
  induction m generalizing low with
  | nil => exact Memory.read_consCell a b [] c rfl
  | cons x m ih =>
    obtain ⟨k, v⟩ := x
    simp only [Memory.wfFrom, Bool.and_eq_true, decide_eq_true_eq] at h
    unfold Memory.write
    split
    · have hk : k ≠ a := by omega
      refine Memory.read_consCell a b _ c ?_
      simp only [Memory.read, hk, if_false]
      exact Memory.read_below h.2 (by omega)
    · split
      · rename_i hak
        rw [Memory.read_consCell a b m c (Memory.read_below h.2 (by omega))]
        subst hak
        by_cases hc : a = c <;> simp [Memory.read, hc]
      · by_cases hc : k = c
        · subst hc
          have : a ≠ k := by omega
          simp [Memory.read, this]
        · simp only [Memory.read, hc, if_false]
          exact ih h.2

theorem Memory.wfFrom_mono {low low' : Nat} {m : Memory} (h : Memory.wfFrom low m = true) (le : low' ≤ low) :
    Memory.wfFrom low' m = true := by
  cases m with
  | nil => rfl
  | cons x m =>
    simp only [Memory.wfFrom, Bool.and_eq_true, decide_eq_true_eq] at h ⊢
    exact ⟨⟨⟨by omega, h.1.1.2⟩, h.1.2⟩, h.2⟩

theorem Memory.wfFrom_consCell {low a : Nat} {m : Memory} (b : Byte) (h : Memory.wfFrom (a + 1) m = true)
    (la : low ≤ a) (ha : a < Config.heapSize) : Memory.wfFrom low (Memory.consCell a b m) = true := by
  unfold Memory.consCell
  split
  · exact Memory.wfFrom_mono h (by omega)
  · rename_i hb
    simp only [Memory.wfFrom, Bool.and_eq_true, decide_eq_true_eq]
    exact ⟨⟨⟨la, ha⟩, hb⟩, h⟩

/-- A write inside the heap keeps the canonical form. -/
theorem Memory.wfFrom_write {low : Nat} {m : Memory} (h : Memory.wfFrom low m = true) {a : Nat} (b : Byte)
    (la : low ≤ a) (ha : a < Config.heapSize) : Memory.wfFrom low (m.write a b) = true := by
  induction m generalizing low with
  | nil => exact Memory.wfFrom_consCell b rfl la ha
  | cons x m ih =>
    obtain ⟨k, v⟩ := x
    have h' := h
    simp only [Memory.wfFrom, Bool.and_eq_true, decide_eq_true_eq] at h
    unfold Memory.write
    split
    · refine Memory.wfFrom_consCell b ?_ la ha
      simp only [Memory.wfFrom, Bool.and_eq_true, decide_eq_true_eq]
      exact ⟨⟨⟨by omega, h.1.1.2⟩, h.1.2⟩, h.2⟩
    · split
      · rename_i hak
        subst hak
        exact Memory.wfFrom_consCell b h.2 la ha
      · simp only [Memory.wfFrom, Bool.and_eq_true, decide_eq_true_eq]
        exact ⟨h.1, ih h.2 (by omega)⟩

theorem Memory.wf_write {m : Memory} (h : m.wf = true) {a : Nat} (b : Byte) (ha : a < Config.heapSize) :
    (m.write a b).wf = true := Memory.wfFrom_write h b (Nat.zero_le a) ha

/-- Writing bytes inside the heap keeps the canonical form. -/
theorem Memory.wf_writeBytes {m : Memory} (h : m.wf = true) {a : Nat} {bs : List Byte}
    (ha : a + bs.length ≤ Config.heapSize) : (m.writeBytes a bs).wf = true := by
  induction bs generalizing m a with
  | nil => exact h
  | cons b bs ih =>
    simp only [List.length_cons] at ha
    exact ih (Memory.wf_write h b (by omega)) (by omega)

/-- What a byte reads as after a run of bytes has been written, in any canonical heap and inside the address space (R44, R46). -/
theorem Memory.read_writeBytes {m : Memory} (h : m.wf = true) {a : Nat} {bs : List Byte}
    (ha : a + bs.length ≤ Config.heapSize) (c : Nat) :
    (m.writeBytes a bs).read c = if a ≤ c then bs.getD (c - a) (m.read c) else m.read c := by
  induction bs generalizing m a with
  | nil => simp [Memory.writeBytes]
  | cons b bs ih =>
    simp only [List.length_cons] at ha
    rw [Memory.writeBytes, ih (Memory.wf_write h b (by omega)) (by omega), Memory.read_write h]
    by_cases hc : a = c
    · subst hc
      simp
    · by_cases hle : a ≤ c
      · have h1 : a + 1 ≤ c := by omega
        have h2 : c - a = (c - (a + 1)) + 1 := by omega
        simp [h1, hle, h2, hc]
      · have h1 : ¬ a + 1 ≤ c := by omega
        simp [h1, hle, hc]

/-- Two canonical heaps that read the same everywhere are the same data. -/
theorem Memory.ext_read {low low' : Nat} {m m' : Memory} (h : Memory.wfFrom low m = true)
    (h' : Memory.wfFrom low' m' = true) (eq : ∀ a, m.read a = m'.read a) : m = m' := by
  induction m generalizing low low' m' with
  | nil =>
    cases m' with
    | nil => rfl
    | cons y m' =>
      obtain ⟨k, b⟩ := y
      simp only [Memory.wfFrom, Bool.and_eq_true, decide_eq_true_eq] at h'
      have := eq k
      simp [Memory.read] at this
      exact absurd this.symm h'.1.2
  | cons x m ih =>
    obtain ⟨k, b⟩ := x
    have hx := h
    simp only [Memory.wfFrom, Bool.and_eq_true, decide_eq_true_eq] at h
    cases m' with
    | nil =>
      have := eq k
      simp [Memory.read] at this
      exact absurd this h.1.2
    | cons y m' =>
      obtain ⟨k', b'⟩ := y
      have hy := h'
      simp only [Memory.wfFrom, Bool.and_eq_true, decide_eq_true_eq] at h'
      have hkk : k = k' := by
        rcases Nat.lt_trichotomy k k' with lt | e | gt
        · have e1 := eq k
          have ne : ¬ k' = k := by omega
          have z : Memory.read m' k = 0 := Memory.read_below h'.2 (by omega)
          simp [Memory.read, ne, z] at e1
          exact absurd e1 h.1.2
        · exact e
        · have e1 := eq k'
          have ne : ¬ k = k' := by omega
          have z : Memory.read m k' = 0 := Memory.read_below h.2 (by omega)
          simp [Memory.read, ne, z] at e1
          exact absurd e1.symm h'.1.2
      subst hkk
      have hb : b = b' := by simpa [Memory.read] using eq k
      subst hb
      have : m = m' := ih h.2 h'.2 fun a => by
        by_cases ha : k = a
        · subst ha
          rw [Memory.read_below h.2 (by omega), Memory.read_below h'.2 (by omega)]
        · simpa [Memory.read, ha] using eq a
      rw [this]

end Sys2Proof.Machine
end

