-- ==== Sys2Proof/Laws/Load.lean ====
section
/-! SUPPORT. What a load does, said once (spec 70_reset_and_hazards.md R187). -/

namespace Sys2Proof.Machine

/-- Two runs of bytes written on an empty heap, an image and then a table of `len` bytes below it: what every address reads. -/
theorem Memory.read_two_runs (image table : List Byte) {a b len : Nat} (hlen : table.length = len) (hab : b + len ≤ a)
    (ha : a + image.length ≤ Config.heapSize) (c : Nat) :
    ((Memory.writeBytes [] a image).writeBytes b table).read c =
      if b ≤ c ∧ c < b + len then table.getD (c - b) 0 else if a ≤ c then image.getD (c - a) 0 else 0 := by
  have w : (Memory.writeBytes [] a image).wf = true := Memory.wf_writeBytes rfl ha
  rw [Memory.read_writeBytes w (by omega), Memory.read_writeBytes rfl ha]
  by_cases h1 : b ≤ c
  · by_cases h2 : c < b + len
    · have : c - b < table.length := by omega
      simp [h1, h2, List.getD_eq_getElem?_getD, this]
    · have : table.length ≤ c - b := by omega
      simp [h1, h2, List.getD_eq_getElem?_getD, this, Memory.read]
  · have : ¬ a ≤ c := by omega
    simp [h1, this, Memory.read]

theorem length_font : Config.font.length = 80 := by decide

/-- The byte at each address after an install on a cleared heap: the font, the image, else 0 (R187, R189). -/
theorem memRead_install (s : State) (image : List Byte) (h : s.heap = []) (hl : image.length ≤ Config.maxImage) (c : Nat) :
    (s.install image).memRead c =
      if 0x050 ≤ c ∧ c < 0x0A0 then Config.font.getD (c - 0x050) 0
      else if 0x200 ≤ c then image.getD (c - 0x200) 0 else 0 := by
  rw [Config.maxImage] at hl
  rw [State.install, State.memRead, State.setPc_heap, State.memWrite, State.memWrite, State.setHeap_heap, State.setHeap_heap, h,
    Memory.read_two_runs image Config.font length_font (by decide) (by rw [Config.heapSize, Config.loadBase]; omega)]
  simp only [Config.loadBase, Config.fontBase]
  rfl

/-- A machine in the reset state is what the reset operation answers, and its heap is clear (R185, R187). -/
theorem inResetState_spec {s : State} (h : inResetState s = true) : s = hostReset s ∧ s.heap = [] := by
  have e : s = hostReset s := by simpa [inResetState] using h
  exact ⟨e, by rw [e]; rfl⟩

/-- Everything a load can do (R165, R187, R188). -/
theorem load_cases (image : List Byte) (s : State) :
    (s.faulted = true ∧ load image s = .refused .hostOperationAfterFault) ∨
    (s.faulted = false ∧ inResetState s = false ∧ load image s = .refused .loadOutsideResetState) ∨
    (s.faulted = false ∧ inResetState s = true ∧ image.length ≤ Config.maxImage ∧ load image s = .next (s.install image)) ∨
    (s.faulted = false ∧ inResetState s = true ∧ Config.maxImage < image.length ∧ load image s = .next s) := by
  unfold load loadReport
  cases s.faulted <;> cases inResetState s <;> by_cases h : image.length ≤ Config.maxImage <;> (simp [h]; try omega)

end Sys2Proof.Machine
end

