-- ==== Sys2Proof/Laws/PerInstr.lean ====
section
/-! SUPPORT. Laws stated per instruction. OpcodeNibble: the top nibble of an instruction's word is the opcode of its row (spec 30_encoding.md R62, R66). -/

namespace Sys2Proof.Laws.OpcodeNibble

/-- Bits 15 to 12 of an instruction's pattern (R66). -/
def opcodeOf : Instr → Nat
  | .cls => 0x0
  | .ret => 0x0
  | .jp _ => 0x1
  | .call _ => 0x2
  | .seImm _ _ => 0x3
  | .sneImm _ _ => 0x4
  | .seReg _ _ _ => 0x5
  | .ldImm _ _ => 0x6
  | .addImm _ _ => 0x7
  | .ldReg _ _ => 0x8
  | .orReg _ _ => 0x8
  | .andReg _ _ => 0x8
  | .xorReg _ _ => 0x8
  | .addReg _ _ => 0x8
  | .sub _ _ => 0x8
  | .shr _ _ => 0x8
  | .subn _ _ => 0x8
  | .shl _ _ => 0x8
  | .sneReg _ _ _ => 0x9
  | .ldI _ => 0xA
  | .jpOff _ => 0xB
  | .rnd _ _ => 0xC
  | .drw _ _ _ => 0xD
  | .skp _ => 0xE
  | .sknp _ => 0xE
  | .ldVxDt _ => 0xF
  | .ldVxK _ => 0xF
  | .ldDtVx _ => 0xF
  | .ldStVx _ => 0xF
  | .addI _ => 0xF
  | .ldF _ => 0xF
  | .ldB _ => 0xF
  | .ldMemVx _ => 0xF
  | .ldVxMem _ => 0xF
  | .nop0 _ => 0x0
  | .nop8 _ _ _ => 0x8
  | .nopE _ _ => 0xE
  | .nopF _ _ => 0xF

/-- The word of the instruction carries its opcode. -/
def Statement (i : Instr) : Prop := (fieldsOf (encode i)).opcode.val = opcodeOf i

/-- The opcode of each word shape. -/
theorem opcode_wordNNN {op : Nat} (h : op < 16) (nnn : Addr12) :
    (fieldsOf (BitVec.ofNat 16 (wordNNN op nnn))).opcode.val = op := (fieldsOf_wordNNN h nnn).1

theorem opcode_wordXNN {op : Nat} (h : op < 16) (x : Nibble) (nn : Byte) :
    (fieldsOf (BitVec.ofNat 16 (wordXNN op x nn))).opcode.val = op := (fieldsOf_wordXNN h x nn).1

theorem opcode_wordXYN {op : Nat} (h : op < 16) (x y n : Nibble) :
    (fieldsOf (BitVec.ofNat 16 (wordXYN op x y n))).opcode.val = op := (fieldsOf_wordXYN h x y n).1

theorem cls : Statement .cls := rfl
theorem ret : Statement .ret := rfl
theorem jp (nnn : Addr12) : Statement (.jp nnn) := opcode_wordNNN (by decide) nnn
theorem call (nnn : Addr12) : Statement (.call nnn) := opcode_wordNNN (by decide) nnn
theorem seImm (x : Nibble) (nn : Byte) : Statement (.seImm x nn) := opcode_wordXNN (by decide) x nn
theorem sneImm (x : Nibble) (nn : Byte) : Statement (.sneImm x nn) := opcode_wordXNN (by decide) x nn
theorem seReg (x y n : Nibble) : Statement (.seReg x y n) := opcode_wordXYN (by decide) x y n
theorem ldImm (x : Nibble) (nn : Byte) : Statement (.ldImm x nn) := opcode_wordXNN (by decide) x nn
theorem addImm (x : Nibble) (nn : Byte) : Statement (.addImm x nn) := opcode_wordXNN (by decide) x nn
theorem ldReg (x y : Nibble) : Statement (.ldReg x y) := opcode_wordXYN (by decide) x y 0x0
theorem orReg (x y : Nibble) : Statement (.orReg x y) := opcode_wordXYN (by decide) x y 0x1
theorem andReg (x y : Nibble) : Statement (.andReg x y) := opcode_wordXYN (by decide) x y 0x2
theorem xorReg (x y : Nibble) : Statement (.xorReg x y) := opcode_wordXYN (by decide) x y 0x3
theorem addReg (x y : Nibble) : Statement (.addReg x y) := opcode_wordXYN (by decide) x y 0x4
theorem sub (x y : Nibble) : Statement (.sub x y) := opcode_wordXYN (by decide) x y 0x5
theorem shr (x y : Nibble) : Statement (.shr x y) := opcode_wordXYN (by decide) x y 0x6
theorem subn (x y : Nibble) : Statement (.subn x y) := opcode_wordXYN (by decide) x y 0x7
theorem shl (x y : Nibble) : Statement (.shl x y) := opcode_wordXYN (by decide) x y 0xE
theorem sneReg (x y n : Nibble) : Statement (.sneReg x y n) := opcode_wordXYN (by decide) x y n
theorem ldI (nnn : Addr12) : Statement (.ldI nnn) := opcode_wordNNN (by decide) nnn
theorem jpOff (nnn : Addr12) : Statement (.jpOff nnn) := opcode_wordNNN (by decide) nnn
theorem rnd (x : Nibble) (nn : Byte) : Statement (.rnd x nn) := opcode_wordXNN (by decide) x nn
theorem drw (x y n : Nibble) : Statement (.drw x y n) := opcode_wordXYN (by decide) x y n
theorem skp (x : Nibble) : Statement (.skp x) := opcode_wordXNN (by decide) x 0x9E
theorem sknp (x : Nibble) : Statement (.sknp x) := opcode_wordXNN (by decide) x 0xA1
theorem ldVxDt (x : Nibble) : Statement (.ldVxDt x) := opcode_wordXNN (by decide) x 0x07
theorem ldVxK (x : Nibble) : Statement (.ldVxK x) := opcode_wordXNN (by decide) x 0x0A
theorem ldDtVx (x : Nibble) : Statement (.ldDtVx x) := opcode_wordXNN (by decide) x 0x15
theorem ldStVx (x : Nibble) : Statement (.ldStVx x) := opcode_wordXNN (by decide) x 0x18
theorem addI (x : Nibble) : Statement (.addI x) := opcode_wordXNN (by decide) x 0x1E
theorem ldF (x : Nibble) : Statement (.ldF x) := opcode_wordXNN (by decide) x 0x29
theorem ldB (x : Nibble) : Statement (.ldB x) := opcode_wordXNN (by decide) x 0x33
theorem ldMemVx (x : Nibble) : Statement (.ldMemVx x) := opcode_wordXNN (by decide) x 0x55
theorem ldVxMem (x : Nibble) : Statement (.ldVxMem x) := opcode_wordXNN (by decide) x 0x65
theorem nop0 (nnn : Addr12) : Statement (.nop0 nnn) := opcode_wordNNN (by decide) nnn
theorem nop8 (x y n : Nibble) : Statement (.nop8 x y n) := opcode_wordXYN (by decide) x y n
theorem nopE (x : Nibble) (nn : Byte) : Statement (.nopE x nn) := opcode_wordXNN (by decide) x nn
theorem nopF (x : Nibble) (nn : Byte) : Statement (.nopF x nn) := opcode_wordXNN (by decide) x nn

end Sys2Proof.Laws.OpcodeNibble
end

