-- ==== Sys2Proof/Laws/Sprites.lean ====
section
/-! SUPPORT. What plotting one pixel does (spec 43_display.md R136); a row and a sprite are folds of it. -/

namespace Sys2Proof.Machine

/-- A lit pixel toggles its cell, a dark one changes nothing (R136). -/
theorem Canvas.cell_plot (vx vy : Byte) (row : Nat) (b : Byte) (c : Canvas) (col : Nat) (cx : Fin 64) (cy : Fin 32) :
    (c.plot vx vy row b col).fb.cell cx cy =
      if spritePixel b col = true ∧ cx = column vx col ∧ cy = line vy row then !c.fb.cell cx cy else c.fb.cell cx cy := by
  unfold Canvas.plot
  by_cases h : spritePixel b col = true
  · simp only [h, if_true, true_and]
    exact Framebuffer.cell_toggle _ _ _ _ _
  · simp [h]

/-- A lit pixel on a set cell is a collision, and a collision stays (R136). -/
theorem Canvas.collision_plot (vx vy : Byte) (row : Nat) (b : Byte) (c : Canvas) (col : Nat) :
    (c.plot vx vy row b col).collision =
      (c.collision || (spritePixel b col && c.fb.cell (column vx col) (line vy row))) := by
  unfold Canvas.plot
  by_cases h : spritePixel b col = true <;> simp [h]

/-- The rows of a sprite, by number (R42, R136). -/
theorem Memory.readBytes_succ (m : Memory) (a count : Nat) :
    m.readBytes a (count + 1) = m.readBytes a count ++ [m.read (a + count)] := by
  simp [Memory.readBytes, List.range_succ]

theorem Memory.length_readBytes (m : Memory) (a count : Nat) : (m.readBytes a count).length = count := by
  simp [Memory.readBytes]

/-- Plotting rows in two runs (R136). -/
theorem Canvas.plotRows_append (vx vy : Byte) (row : Nat) (bs cs : List Byte) (c : Canvas) :
    Canvas.plotRows vx vy row (bs ++ cs) c =
      Canvas.plotRows vx vy (row + bs.length) cs (Canvas.plotRows vx vy row bs c) := by
  induction bs generalizing row c with
  | nil => rfl
  | cons b bs ih =>
    simp only [List.cons_append, Canvas.plotRows, ih, List.length_cons]
    rw [Nat.add_right_comm, Nat.add_assoc]

end Sys2Proof.Machine
end

