-- ==== Sys2Proof/Laws/Step.lean ====
section
/-! SUPPORT. What the shared operations of a step can do, said once (spec 30_encoding.md R64; 60_exceptions.md R161, R164). -/

namespace Sys2Proof.Machine

/-- What a guarded instruction answers: its fault, raised on the state before, or its effect (R161). -/
theorem guarded_cases {f : Option Fault} {before after t : State} (h : guarded f before after = .next t) :
    (∃ g, f = some g ∧ t = before.raise g) ∨ (f = none ∧ t = after) := by
  cases f with
  | none => exact .inr ⟨rfl, by cases h; rfl⟩
  | some g => exact .inl ⟨g, rfl, by cases h; rfl⟩

/-- Everything a step can do (R64, R164). -/
theorem step_cases {s t : State} (h : step s = .next t) :
    (s.faulted = true ∧ t = s) ∨
    (s.faulted = false ∧ 0xFFE < s.pc.toNat ∧ t = s.raise (.fetchOutOfRange s.pc)) ∨
    (s.faulted = false ∧ s.pc.toNat ≤ 0xFFE ∧ exec (decodeWord s.fetchWord) s = .next t) := by
  unfold step cycle at h
  split at h
  · rename_i hf
    exact .inl ⟨hf, by cases h; rfl⟩
  · rename_i hf
    have hf : s.faulted = false := by simpa using hf
    unfold fetchExecute fetchFault at h
    by_cases hp : s.pc.toNat + 1 < Config.heapSize
    · simp only [hp, if_true] at h
      exact .inr (.inr ⟨hf, by simp only [Config.heapSize] at hp; omega, h⟩)
    · simp only [hp, if_false] at h
      exact .inr (.inl ⟨hf, by simp only [Config.heapSize] at hp; omega, by cases h; rfl⟩)

/-- When an access through I faults, and with what (R46). -/
theorem indexFault_spec (i : Word) (count : Nat) :
    (indexFault i count = none ↔ count = 0 ∨ i.toNat + count ≤ 0x1000) ∧
    ∀ f, indexFault i count = some f → 0 < count ∧ 0x1000 < i.toNat + count ∧ f = .heapOutOfRange (i.toNat + count - 1) := by
  unfold indexFault
  by_cases h : count = 0 ∨ i.toNat + count ≤ Config.heapSize
  · rw [if_pos h]
    exact ⟨⟨fun _ => h, fun _ => rfl⟩, fun f hf => nomatch hf⟩
  · rw [if_neg h]
    simp only [Config.heapSize] at h
    refine ⟨⟨fun hf => (nomatch hf), fun hf => absurd hf h⟩, fun f hf => ⟨by omega, by omega, by cases hf; rfl⟩⟩

/-- When a key number faults, and with what (R145, R162). -/
theorem keyFault_spec (b : Byte) :
    (keyFault b = none ↔ b.toNat ≤ 15) ∧ ∀ f, keyFault b = some f → 15 < b.toNat ∧ f = .keyIndexOutOfRange b := by
  unfold keyFault
  constructor
  · split <;> simp_all
  · intro f hf
    split at hf
    · cases hf
    · exact ⟨by omega, by cases hf; rfl⟩

/-- When CALL faults (R83). -/
theorem pushFault_spec (p : Fin 17) :
    (pushFault p = none ↔ p.val < 16) ∧ ∀ f, pushFault p = some f → p.val = 16 ∧ f = .stackOverflow := by
  have := p.isLt
  unfold pushFault
  constructor
  · split <;> simp <;> omega
  · intro f hf
    split at hf
    · exact ⟨by assumption, by cases hf; rfl⟩
    · cases hf

/-- When RET faults (R81). -/
theorem popFault_spec (p : Fin 17) :
    (popFault p = none ↔ 0 < p.val) ∧ ∀ f, popFault p = some f → p.val = 0 ∧ f = .stackUnderflow := by
  unfold popFault
  constructor
  · split <;> simp <;> omega
  · intro f hf
    split at hf
    · exact ⟨by assumption, by cases hf; rfl⟩
    · cases hf

/-- A step at a fetchable PC runs the decoded instruction (R64). -/
theorem step_eq_exec {s : State} (hf : s.faulted = false) (hp : s.pc.toNat ≤ 0xFFE) :
    step s = exec (decodeWord s.fetchWord) s := by
  have h : s.pc.toNat + 1 < Config.heapSize := by simp only [Config.heapSize]; omega
  simp [step, cycle, hf, fetchExecute, fetchFault, h]

end Sys2Proof.Machine
end

