-- ==== Sys2Proof/Tests/Slice0.lean ====
section
/-! SUPPORT. The model's own tests: ill-formed terms, one word per constructor, one step per instruction, the host's operations,
and a witness for the hypotheses of each statement. Expected results are the vectors of spec/95_test_vectors.md, named in each comment. -/

namespace Sys2Proof.Tests

open Sys2Proof Sys2Proof.Machine

/-! ## Well-formedness: an ill-formed term for each check -/

theorem test_illformed_nop0_cls : (Instr.nop0 0x0E0).wellFormed = false := by decide
theorem test_illformed_nop0_ret : (Instr.nop0 0x0EE).wellFormed = false := by decide
theorem test_illformed_nop8 : (Instr.nop8 1 2 0xE).wellFormed = false := by decide
theorem test_illformed_nopE : (Instr.nopE 1 0xA1).wellFormed = false := by decide
theorem test_illformed_nopF : (Instr.nopF 1 0x65).wellFormed = false := by decide
theorem test_wellformed_nop8 : (Instr.nop8 1 2 0xF).wellFormed = true := by decide

/-! ## Decoding: a word written out for each constructor (95_test_vectors.md 2.1; R66's patterns) -/

theorem test_decode_cls : decodeTableWord 16 0x00E0 = some (.cls) := by decide
theorem test_decode_ret : decodeTableWord 16 0x00EE = some (.ret) := by decide
theorem test_decode_jp : decodeTableWord 16 0x1ABC = some (.jp 0xABC) := by decide
theorem test_decode_call : decodeTableWord 16 0x2204 = some (.call 0x204) := by decide
theorem test_decode_seImm : decodeTableWord 16 0x3A7F = some (.seImm 0xA 0x7F) := by decide
theorem test_decode_sneImm : decodeTableWord 16 0x4A7F = some (.sneImm 0xA 0x7F) := by decide
theorem test_decode_seReg : decodeTableWord 16 0x5AB7 = some (.seReg 0xA 0xB 7) := by decide
theorem test_decode_ldImm : decodeTableWord 16 0x6C42 = some (.ldImm 0xC 0x42) := by decide
theorem test_decode_addImm : decodeTableWord 16 0x7CFF = some (.addImm 0xC 0xFF) := by decide
theorem test_decode_ldReg : decodeTableWord 16 0x8AB0 = some (.ldReg 0xA 0xB) := by decide
theorem test_decode_orReg : decodeTableWord 16 0x8121 = some (.orReg 1 2) := by decide
theorem test_decode_andReg : decodeTableWord 16 0x8122 = some (.andReg 1 2) := by decide
theorem test_decode_xorReg : decodeTableWord 16 0x8123 = some (.xorReg 1 2) := by decide
theorem test_decode_addReg : decodeTableWord 16 0x8014 = some (.addReg 0 1) := by decide
theorem test_decode_sub : decodeTableWord 16 0x8015 = some (.sub 0 1) := by decide
theorem test_decode_shr : decodeTableWord 16 0x8126 = some (.shr 1 2) := by decide
theorem test_decode_subn : decodeTableWord 16 0x8127 = some (.subn 1 2) := by decide
theorem test_decode_shl : decodeTableWord 16 0x8ABE = some (.shl 0xA 0xB) := by decide
theorem test_decode_sneReg : decodeTableWord 16 0x9AB1 = some (.sneReg 0xA 0xB 1) := by decide
theorem test_decode_ldI : decodeTableWord 16 0xA2F0 = some (.ldI 0x2F0) := by decide
theorem test_decode_jpOff : decodeTableWord 16 0xB300 = some (.jpOff 0x300) := by decide
theorem test_decode_rnd : decodeTableWord 16 0xC30F = some (.rnd 3 0x0F) := by decide
theorem test_decode_drw : decodeTableWord 16 0xD125 = some (.drw 1 2 5) := by decide
theorem test_decode_skp : decodeTableWord 16 0xE39E = some (.skp 3) := by decide
theorem test_decode_sknp : decodeTableWord 16 0xE3A1 = some (.sknp 3) := by decide
theorem test_decode_ldVxDt : decodeTableWord 16 0xF107 = some (.ldVxDt 1) := by decide
theorem test_decode_ldVxK : decodeTableWord 16 0xF30A = some (.ldVxK 3) := by decide
theorem test_decode_ldDtVx : decodeTableWord 16 0xF015 = some (.ldDtVx 0) := by decide
theorem test_decode_ldStVx : decodeTableWord 16 0xF418 = some (.ldStVx 4) := by decide
theorem test_decode_addI : decodeTableWord 16 0xF21E = some (.addI 2) := by decide
theorem test_decode_ldF : decodeTableWord 16 0xF029 = some (.ldF 0) := by decide
theorem test_decode_ldB : decodeTableWord 16 0xF033 = some (.ldB 0) := by decide
theorem test_decode_ldMemVx : decodeTableWord 16 0xFF55 = some (.ldMemVx 0xF) := by decide
theorem test_decode_ldVxMem : decodeTableWord 16 0xF265 = some (.ldVxMem 2) := by decide
theorem test_decode_nop0 : decodeTableWord 16 0x01E0 = some (.nop0 0x1E0) := by decide
theorem test_decode_nop8 : decodeTableWord 16 0x8AB8 = some (.nop8 0xA 0xB 8) := by decide
theorem test_decode_nopE : decodeTableWord 16 0xE300 = some (.nopE 3 0x00) := by decide
theorem test_decode_nopF : decodeTableWord 16 0xF175 = some (.nopF 1 0x75) := by decide

theorem test_decode_truncated : decodeBytes [0x12] = .error .truncated := rfl
theorem test_fetch_is_big_endian : decodeBytes [0x12, 0x34, 0x56] = .ok (.jp 0x234, [0x56]) := rfl
theorem test_encode_drw : encodeBytes (.drw 1 2 5) = [0xD1, 0x25] := by decide
theorem test_font_length : Config.font.length = 80 := by decide
theorem test_rows : opcodeRows.length = 34 := by decide

/-! ## One step each -/

/-- PC at 0x200 after reset, the quirk booleans as given. -/
def start (q : Bool) : State := (State.resetWith { shift := q, jump := q, tempIndex := q }).setPc 0x200

/-- The state an operation answers, or the reset state when it stops. -/
def after : Result → State
  | .next t => t
  | .fault _ => State.reset
  | .refused _ => State.reset

/-- The state after the word is placed at PC and stepped. -/
def run (w : Nat) (s : State) : State := after (Machine.step (s.withFetchWord 16 w))

/-- What a step leaves in the latch. -/
def latch (s : State) : Bool × BitVec 3 × Word × Word := (s.faulted, s.faultCause, s.faultInfo, s.pc)

/-- F1. -/
theorem test_nop8_advances : run 0x8129 (start false) = (((start false).withFetchWord 16 0x8129).setPc 0x202) := by decide

/-- F2. -/
theorem test_nop0_advances : (run 0x0000 (start false)).pc = 0x202 := by decide

/-- R80. -/
theorem test_nopE_advances : (run 0xE300 (start false)).pc = 0x202 := by decide

/-- R80. -/
theorem test_nopF_advances : (run 0xF175 (start false)).pc = 0x202 := by decide

/-- F5, an odd target. -/
theorem test_jp : (run 0x1203 (start false)).pc = 0x203 := by decide

/-- F7. -/
theorem test_call : let t := run 0x2300 ((start false).setCallStack 15 (start false).stack); (t.stack[15], t.sp, t.pc) = (0x0202, 16, 0x300) := by decide

/-- F8. -/
theorem test_call_overflows : latch (run 0x2300 ((start false).setCallStack 16 (start false).stack)) = (true, 2, 16, 0x200) := by decide

/-- F9. -/
theorem test_ret : let t := run 0x00EE ((start false).setCallStack 1 ((start false).stack.set 0 0x0206)); (t.stack[0], t.sp, t.pc) = (0, 0, 0x206) := by decide

/-- F10. -/
theorem test_ret_underflows : latch (run 0x00EE (start false)) = (true, 3, 0, 0x200) := by decide

/-- F14. -/
theorem test_seImm_skips : (run 0x3F01 ((start false).writeV 0xF 0x01)).pc = 0x204 := by decide

/-- F13. -/
theorem test_seImm_falls_through : (run 0x3000 ((start false).writeV 0x0 0x01)).pc = 0x202 := by decide

/-- F15. -/
theorem test_sneImm_skips : (run 0x4311 ((start false).writeV 0x3 0x10)).pc = 0x204 := by decide

/-- F16. -/
theorem test_sneImm_falls_through : (run 0x4310 ((start false).writeV 0x3 0x10)).pc = 0x202 := by decide

/-- F20. -/
theorem test_seReg_ignores_n : (run 0x5127 (((start false).writeV 0x1 0x07).writeV 0x2 0x07)).pc = 0x204 := by decide

/-- F18. -/
theorem test_seReg_falls_through : (run 0x5120 (((start false).writeV 0x1 0x07).writeV 0x2 0x08)).pc = 0x202 := by decide

/-- F21. -/
theorem test_sneReg_skips : (run 0x9120 (((start false).writeV 0x1 0x07).writeV 0x2 0x08)).pc = 0x204 := by decide

/-- F23. -/
theorem test_sneReg_same_register : (run 0x9110 ((start false).writeV 0x1 0x09)).pc = 0x202 := by decide

/-- F24. -/
theorem test_jpOff_v0 : (run 0xB300 (((start false).writeV 0x0 0x04).writeV 0x3 0x10)).pc = 0x304 := by decide

/-- F27. -/
theorem test_jpOff_vx : (run 0xBFFF (((start true).writeV 0x0 0xFF).writeV 0xF 0x02)).pc = 0x1001 := by decide

/-- A2. -/
theorem test_ldImm : (run 0x6F00 ((start false).writeV 0xF 0x01)).readV 0xF = 0 := by decide

/-- A3. -/
theorem test_addImm_wraps : let t := run 0x7101 (((start false).writeV 0x1 0xFF).writeV 0xF 0x01); (t.readV 1, t.readV 0xF) = (0, 1) := by decide

/-- A6. -/
theorem test_ldReg : let t := run 0x8120 (((start false).writeV 0x1 0x11).writeV 0x2 0x22); (t.readV 1, t.readV 2) = (0x22, 0x22) := by decide

/-- A7. -/
theorem test_orReg : let t := run 0x8121 ((((start false).writeV 0x1 0x0C).writeV 0x2 0x0A).writeV 0xF 0x01); (t.readV 1, t.readV 0xF) = (0xE, 1) := by decide

/-- A8. -/
theorem test_andReg : let t := run 0x8122 ((((start false).writeV 0x1 0x0C).writeV 0x2 0x0A).writeV 0xF 0x01); (t.readV 1, t.readV 0xF) = (8, 1) := by decide

/-- A9. -/
theorem test_xorReg : let t := run 0x8123 ((((start false).writeV 0x1 0x0C).writeV 0x2 0x0A).writeV 0xF 0x01); (t.readV 1, t.readV 0xF) = (6, 1) := by decide

/-- S3a. -/
theorem test_addReg_carries : let t := run 0x8124 (((start false).writeV 0x1 0xFA).writeV 0x2 0x0A); (t.readV 1, t.readV 0xF) = (4, 1) := by decide

/-- A16. -/
theorem test_addReg_flag_last : (run 0x8FF4 ((start false).writeV 0xF 0x80)).readV 0xF = 1 := by decide

/-- S4a. -/
theorem test_sub_borrows : let t := run 0x8125 ((((start false).writeV 0x1 0x05).writeV 0x2 0x0A).writeV 0xF 0x01); (t.readV 1, t.readV 0xF) = (251, 0) := by decide

/-- A21. -/
theorem test_sub_flag_last : (run 0x8F15 (((start false).writeV 0xF 0x03).writeV 0x1 0x05)).readV 0xF = 0 := by decide

/-- A23. -/
theorem test_subn : let t := run 0x8127 (((start false).writeV 0x1 0x0A).writeV 0x2 0x05); (t.readV 1, t.readV 0xF) = (0xFB, 0) := by decide

/-- A24. -/
theorem test_subn_equal : let t := run 0x8127 (((start false).writeV 0x1 0x09).writeV 0x2 0x09); (t.readV 1, t.readV 0xF) = (0, 1) := by decide

/-- A26. -/
theorem test_shr_from_vy : let t := run 0x8126 (((start false).writeV 0x1 0x03).writeV 0x2 0xF0); (t.readV 1, t.readV 2, t.readV 0xF) = (0x78, 0xF0, 0) := by decide

/-- A25. -/
theorem test_shr_in_place : let t := run 0x8126 (((start true).writeV 0x1 0x03).writeV 0x2 0xF0); (t.readV 1, t.readV 2, t.readV 0xF) = (1, 0xF0, 1) := by decide

/-- A30. -/
theorem test_shl_from_vy : let t := run 0x812E (((start false).writeV 0x1 0x40).writeV 0x2 0x81); (t.readV 1, t.readV 2, t.readV 0xF) = (2, 0x81, 1) := by decide

/-- A29. -/
theorem test_shl_in_place : let t := run 0x812E (((start true).writeV 0x1 0x40).writeV 0x2 0x81); (t.readV 1, t.readV 0xF) = (0x80, 0) := by decide

/-- M2. -/
theorem test_ldI : (run 0xAFFF (start false)).i = 0x0FFF := by decide

/-- M3. -/
theorem test_addI_no_wrap_at_4096 : let t := run 0xF21E (((start false).writeV 0x2 0x02).setI 0x0FFF); (t.i, t.readV 0xF) = (0x1001, 0) := by decide

/-- M4. -/
theorem test_addI_wraps_at_65536 : (run 0xF11E (((start false).writeV 0x1 0x01).setI 0xFFFF)).i = 0 := by decide

/-- M8. -/
theorem test_ldF_unmasked : (run 0xF029 ((start false).writeV 0x0 0xFF)).i = 0x054B := by decide

/-- M11. -/
theorem test_ldB : let t := run 0xF033 (((start false).writeV 0x0 0xC7).setI 0xFFD); (t.memRead 0xFFD, t.memRead 0xFFE, t.memRead 0xFFF, t.pc) = (1, 9, 9, 0x202) := by decide

/-- M12. -/
theorem test_ldB_out_of_range : latch (run 0xF033 (((start false).writeV 0x0 0xC7).setI 0xFFE)) = (true, 4, 0x1000, 0x200) := by decide

/-- M14. -/
theorem test_ldMemVx_bumps : let t := run 0xF255 (((((start false).writeV 0x0 0x01).writeV 0x1 0x02).writeV 0x2 0x03).setI 0x400); (t.memRead 0x402, t.memRead 0x403, t.i) = (3, 0, 0x403) := by decide

/-- M17. -/
theorem test_ldMemVx_out_of_range : latch (run 0xFF55 ((start true).setI 0xFF1)) = (true, 4, 0x1000, 0x200) := by decide

/-- M18. -/
theorem test_ldVxMem_keeps_index : let t := run 0xF265 ((((start true).memWrite 0x300 [2, 5, 4, 9])).setI 0x300); (t.readV 0, t.readV 2, t.readV 3, t.i) = (2, 4, 0, 0x300) := by decide

/-- M21. -/
theorem test_ldVxMem_out_of_range : latch (run 0xF065 ((start false).setI 0x1000)) = (true, 4, 0x1000, 0x200) := by decide

/-- DS1. -/
theorem test_cls : let t := run 0x00E0 (((start false).writeV 0xF 0x01).setFb ((start false).fb.toggle 9 9)); (t.fb.cell 9 9, t.readV 0xF) = (false, 1) := by decide

/-- DS4. -/
theorem test_drw_wraps : let t := run 0xD122 ((((((start false).writeV 0x1 0x3E).writeV 0x2 0x1F)).memWrite 0x300 [0xC0, 0x81]).setI 0x300); (t.fb.cell 62 31, t.fb.cell 63 31, t.fb.cell 62 0, t.fb.cell 5 0, t.fb.cell 0 31, t.readV 0xF) = (true, true, true, true, false, 0) := by decide

/-- DS11. -/
theorem test_drw_vf_is_column_first : let t := run 0xDF11 ((((start false).writeV 0xF 0x05).memWrite 0x300 [0x80]).setI 0x300); (t.fb.cell 5 0, t.fb.cell 0 0, t.readV 0xF) = (true, false, 0) := by decide

/-- K7. -/
theorem test_skp_largest_key : (run 0xE19E (((start false).writeV 0x1 0x0F).setKey 15 true)).pc = 0x204 := by decide

/-- K5. -/
theorem test_skp_key_out_of_range : latch (run 0xE19E ((start false).writeV 0x1 0x10)) = (true, 5, 0x10, 0x200) := by decide

/-- K3. -/
theorem test_sknp_skips : (run 0xE3A1 ((start false).writeV 0x3 0x07)).pc = 0x204 := by decide

/-- K4. -/
theorem test_sknp_falls_through : (run 0xE3A1 (((start false).writeV 0x3 0x07).setKey 7 true)).pc = 0x202 := by decide

/-- K8. -/
theorem test_ldVxDt : let t := run 0xF107 ((start false).setDt 0x3C); (t.readV 1, t.dt) = (0x3C, 0x3C) := by decide

/-- K19. -/
theorem test_ldVxK_waits : let t := run 0xF30A (start false); (t.awaitingKeyRegister, t.pc) = (some 3, 0x200) := by decide

/-- K18. -/
theorem test_ldVxK_goes_on : let t := run 0xF30A ((start false).setKeyWait none true); (t.awaitingKeyRegister, t.keyWaitResolved, t.pc) = (none, false, 0x202) := by decide

/-- K9. -/
theorem test_ldDtVx : (run 0xF015 ((start false).writeV 0x0 0x03)).dt = 3 := by decide

/-- K10. -/
theorem test_ldStVx : soundActive (run 0xF418 ((start false).writeV 0x4 0x10)) = true := by decide

/-- F29. -/
theorem test_fetch_out_of_range : latch (after (Machine.step ((start false).setPc 0xFFF))) = (true, 1, 0xFFF, 0xFFF) := by decide

/-- X6. -/
theorem test_faulted_step_does_nothing : Machine.step ((start false).setLatch 3 0) = .next ((start false).setLatch 3 0) := rfl

/-- A34: the byte 0xA7 under the mask 0x0F, whatever the machine's own draw is. -/
theorem test_rnd_mask : ((start false).maskRandom 0xA7 3 0x0F).readV 3 = 0x07 := by decide

/-- A35: the mask 0 gives 0 whatever the byte. -/
theorem test_rnd_zero_mask : (after (exec (.rnd 3 0x00) (start false))).readV 3 = 0 := by
  simp [after, exec, execRnd, State.maskRandom, State.readV, State.writeV, State.setV]

/-! ## Host operations -/

/-- K11. -/
theorem test_tick : let t := after (tick (((start false).setDt 1).setSt 255)); (t.dt, t.st) = (0, 254) := by decide

/-- K13. -/
theorem test_key_press_recorded : (after (keyEvent 5 true (start false))).keyDown 5 = true := by decide

/-- K15. -/
theorem test_key_press_resolves : let t := after (keyEvent 7 true ((start false).setKeyWait (some 3) false)); (t.readV 3, t.awaitingKeyRegister, t.keyWaitResolved, t.keyDown 7) = (7, none, true, false) := by decide

/-- K16. -/
theorem test_key_release_does_not_resolve : let t := after (keyEvent 2 false (((start false).setKey 2 true).setKeyWait (some 3) false)); (t.keyDown 2, t.awaitingKeyRegister) = (false, some 3) := by decide

/-- X2. -/
theorem test_load_empty_image : let t := after (load [] State.reset); (t.memRead 0x50, t.memRead 0x9F, t.memRead 0xA0, t.pc) = (0xF0, 0x80, 0, 0x200) := by decide

/-- X3, X4. -/
theorem test_load_limit : loadReport (List.replicate 3584 0) = .loaded ∧ loadReport (List.replicate 3585 0) = .sizeLimitExceeded := by
  simp only [loadReport, List.length_replicate]; exact ⟨rfl, rfl⟩

/-- R187. -/
theorem test_load_refused_off_reset : load [] (start false) = .refused .loadOutsideResetState := rfl

/-- X7. -/
theorem test_reset_from_fault : hostReset (((start false).writeV 0x1 0x09).setLatch 3 0) = State.reset := by decide

/-! ## Witnesses: for each statement with hypotheses, states and operands that meet them, clause by clause at the ends of their ranges -/

/-- A machine with no fault recorded, at PC p. -/
def at_ (p : Word) : State := State.reset.setPc p

/-- The same with two bytes at PC 0x200. -/
def holding (hi lo : Byte) : State := (at_ 0x200).memWrite 0x200 [hi, lo]

/-- A machine that has faulted on a RET at 0x200. -/
def crashed : State := after (Machine.step (holding 0x00 0xEE))

theorem witness_DecodeOfEncode : (Instr.drw 15 15 15).wellFormed = true ∧ (Instr.nop0 0xFFF).wellFormed = true := by decide

theorem witness_DecodeFollowsOpcodeTable :
    (⟨"CLS", 0x00E0, 0xFFFF⟩ : Row) ∈ opcodeRows ∧ (0x00E0 : Word) &&& 0xFFFF = 0x00E0 := by decide

theorem witness_UnrecognisedWordsAreExactly :
    Unrecognised 0x0000 ∧ Unrecognised 0x8FFF ∧ Unrecognised 0xE09F ∧ Unrecognised 0xFFFF ∧ ¬ Unrecognised 0x00EE := by
  unfold Unrecognised; decide

theorem witness_StepRunsDecodedInstruction :
    NoFault (at_ 0xFFE) ∧ (at_ 0xFFE).pc.toNat ≤ 0xFFE ∧
      decodeBytes [(at_ 0xFFE).memRead 0xFFE, (at_ 0xFFE).memRead 0xFFF] = .ok (.nop0 0, []) := ⟨rfl, by decide, rfl⟩

theorem witness_StepOrderOfChecks :
    crashed.faulted = true ∧ (NoFault (at_ 0xFFF) ∧ 0xFFE < (at_ 0xFFF).pc.toNat) ∧
      (NoFault (at_ 0xFFE) ∧ (at_ 0xFFE).pc.toNat ≤ 0xFFE) := ⟨rfl, ⟨rfl, by decide⟩, rfl, by decide⟩

theorem witness_FaultsArePrecise : NoFault (holding 0x00 0xEE) ∧
    Machine.step (holding 0x00 0xEE) = .next crashed ∧ crashed.faulted = true := ⟨rfl, rfl, rfl⟩

theorem witness_FaultsAreExactlyTheTable : NoFault (at_ 0xFFF) ∧
    Machine.step (at_ 0xFFF) = .next ((at_ 0xFFF).setLatch 1 0xFFF) ∧ StepFaults (at_ 0xFFF) 1 0xFFF :=
  ⟨rfl, rfl, .inl ⟨by decide, rfl, rfl⟩⟩

theorem witness_FaultsAreExactlyTheTable_none : NoFault (at_ 0xFFE) ∧
    Machine.step (at_ 0xFFE) = .next (at_ 0x1000) := ⟨rfl, rfl⟩

theorem witness_FaultedMachineIsTerminal : crashed.faulted = true := rfl

theorem witness_PlacedWordIsRunNext : State.reset.heap.wf = true ∧ 0xFFFF < 65536 ∧ Decodes 0xFFFF (.nopF 15 0xFF) :=
  ⟨rfl, by decide, rfl⟩

theorem witness_NoOpsOnlyAdvance : Unrecognised 0x8AB8 := by unfold Unrecognised; decide

theorem witness_RetPopsOrUnderflows : (at_ 0x200).sp.val = 0 ∧
    ((at_ 0x200).setCallStack 1 State.reset.stack).sp.val = (0 : Nibble).val + 1 ∧
    ((at_ 0x200).setCallStack 16 State.reset.stack).sp.val = (15 : Nibble).val + 1 := by decide

theorem witness_CallPushesOrOverflows : ((at_ 0x200).setCallStack 16 State.reset.stack).sp.val = 16 ∧
    (at_ 0x200).sp.val = (0 : Nibble).val ∧
    ((at_ 0x200).setCallStack 15 State.reset.stack).sp.val = (15 : Nibble).val := by decide

theorem witness_JumpWithOffset : (start true).quirk.jump = true ∧ (15 : Nibble).val = (0xFFF : Addr12).toNat / 256 ∧
    (start false).quirk.jump = false := by decide

theorem witness_AddWritesSumThenCarry : (14 : Nibble) ≠ 0xF := by decide

theorem witness_SubtractsWriteDifferenceThenNotBorrow : (0 : Nibble) ≠ 0xF := by decide

theorem witness_ShiftsWriteResultThenBitOut :
    (0x01 : Byte) = (if (start true).quirk.shift = true then ((start true).writeV 1 1).readV 1 else ((start true).writeV 1 1).readV 2) ∧
    (0x80 : Byte) = (if (start false).quirk.shift = true then ((start false).writeV 2 0x80).readV 1
      else ((start false).writeV 2 0x80).readV 2) ∧ (1 : Nibble) ≠ 0xF := by decide

theorem witness_BcdStoresThreeDigits : HeapInv ((at_ 0x200).setI 0xFFD) ∧ ((at_ 0x200).setI 0xFFD).i.toNat + 2 ≤ 0xFFF ∧
    0xFFF < ((at_ 0x200).setI 0xFFE).i.toNat + 2 := ⟨rfl, by decide, by decide⟩

theorem witness_StoreRegisterBlock : HeapInv ((at_ 0x200).setI 0xFF0) ∧
    ((at_ 0x200).setI 0xFF0).i.toNat + (15 : Nibble).val ≤ 0xFFF ∧
    0xFFF < ((at_ 0x200).setI 0xFF1).i.toNat + (15 : Nibble).val := ⟨rfl, by decide, by decide⟩

theorem witness_LoadRegisterBlock : ((at_ 0x200).setI 0xFFF).i.toNat + (0 : Nibble).val ≤ 0xFFF ∧
    0xFFF < ((at_ 0x200).setI 0xFFF).i.toNat + (1 : Nibble).val := by decide

theorem witness_DrawTogglesSpriteCells : (0 < (2 : Nibble).val ∧ 0xFFF < ((at_ 0x200).setI 0xFFF).i.toNat + (2 : Nibble).val - 1) ∧
    ((at_ 0x200).setI 0xFFF).i.toNat + (1 : Nibble).val - 1 ≤ 0xFFF ∧ (0 : Nibble).val = 0 := by decide

/-- A one-row sprite with its leftmost pixel lit, I on it. -/
def sprited : State := ((at_ 0x200).memWrite 0x300 [0x80]).setI 0x300

theorem witness_DrawTogglesSpriteCells_lit : SpriteLit sprited 0 1 1 0 0 ∧ sprited.fb.cell 0 0 = false ∧
    (sprited.setFb (sprited.fb.toggle 0 0)).fb.cell 0 0 = true :=
  ⟨⟨0, by decide, 0, by decide, by decide⟩, by decide, by decide⟩

theorem witness_DrawTogglesSpriteCells_dark : ¬ SpriteLit sprited 0 1 0 0 0 := fun ⟨_, h, _⟩ => absurd h (Nat.not_lt_zero _)

theorem witness_KeySkips : 15 < (((at_ 0x200).writeV 3 16).readV 3).toNat ∧
    (((at_ 0x200).writeV 3 15).readV 3).toNat = (15 : Nibble).val ∧ ((at_ 0x200).readV 3).toNat = (0 : Nibble).val := by decide

theorem witness_KeyWaitInstruction : ((at_ 0x200).setKeyWait none true).keyWaitResolved = true ∧
    (at_ 0x200).keyWaitResolved = false := by decide

theorem witness_KeyWaitProtocol : NoFault (holding 0xF5 0x0A) ∧ AtKeyWait 5 (holding 0xF5 0x0A) ∧
    (holding 0xF5 0x0A).awaitingKeyRegister = none ∧ (holding 0xF5 0x0A).keyWaitResolved = false :=
  ⟨rfl, ⟨by decide, by decide⟩, rfl, rfl⟩

theorem witness_TickCountsDown : NoFault ((at_ 0x200).setDt 0xFF) ∧ NoFault ((at_ 0x200).setDt 0) := ⟨rfl, rfl⟩

theorem witness_KeyEventCases : (NoFault ((at_ 0x200).setKeyWait (some 15) false) ∧
    ((at_ 0x200).setKeyWait (some 15) false).awaitingKeyRegister = some 15) ∧
    NoFault (at_ 0x200) ∧ (at_ 0x200).awaitingKeyRegister = none := ⟨⟨rfl, rfl⟩, rfl, rfl⟩

theorem witness_ResetStateValues : State.reset = State.resetWith State.reset.quirk := rfl

theorem witness_LoadInstallsImageAndFont : NoFault State.reset ∧ inResetState State.reset = true ∧
    (List.replicate 3584 (0xFF : Byte)).length ≤ 3584 ∧ 3584 < (List.replicate 3585 (0xFF : Byte)).length ∧
    (NoFault (at_ 0x200) ∧ inResetState (at_ 0x200) = false) :=
  ⟨rfl, rfl, by rw [List.length_replicate], by rw [List.length_replicate]; decide, rfl, rfl⟩

theorem witness_LoadRejectsLongImage : 3584 < (List.replicate 3585 (0xFF : Byte)).length ∧ NoFault State.reset ∧
    inResetState State.reset = true := ⟨by rw [List.length_replicate]; decide, rfl, rfl⟩

theorem witness_BootReachesLaunchState : ([] : List Byte).length ≤ 3584 ∧ (List.replicate 3584 (0xFF : Byte)).length ≤ 3584 :=
  ⟨by decide, by rw [List.length_replicate]⟩

theorem witness_FontGlyphIsAddressed : ∃ t u, inResetState State.reset = true ∧ NoFault State.reset ∧
    ([] : List Byte).length ≤ 3584 ∧ perform (.load []) State.reset = .next t ∧
    ((Vector.replicate 16 (15 : Byte))[(15 : Nibble)]).toNat ≤ 15 ∧
    exec (.ldF 15) (t.setV (Vector.replicate 16 15)) = .next u := ⟨_, _, rfl, rfl, by decide, rfl, by decide, rfl⟩

/-- R189's rows for the digits 1, 7 and F. -/
theorem test_glyph_rows : (List.range 5).map (glyphRow 1) = [0x20, 0x60, 0x20, 0x20, 0x70] ∧
    (List.range 5).map (glyphRow 7) = [0xF0, 0x10, 0x20, 0x40, 0x40] ∧
    (List.range 5).map (glyphRow 15) = [0xF0, 0x80, 0xF0, 0x80, 0x80] := by decide

theorem witness_ClearedMemoryWalks : 0 ≤ 2048 ∧ 2048 ≤ 2048 := by decide

theorem witness_StepKeepsHeapCanonical : HeapInv (holding 0xF5 0x0A) ∧
    ∃ t, Machine.step (holding 0xF5 0x0A) = .next t := ⟨by unfold HeapInv; decide, _, rfl⟩

/-- A machine one call deep, at a RET. -/
def called : State := (holding 0x00 0xEE).setCallStack 1 (State.reset.stack.set 0 0x0302)

theorem witness_StepKeepsDeadStackZero : StackInv called ∧ ∃ t, Machine.step called = .next t :=
  ⟨by unfold StackInv; decide, _, rfl⟩

/-- A machine waiting for a key at an FX0A, and one whose wait was just resolved. -/
def waiting : State := (holding 0xF5 0x0A).setKeyWait (some 5) false
def resolved : State := (holding 0xF5 0x0A).setKeyWait none true

theorem witness_StepKeepsKeyWaitAtItsInstruction : (KeyWaitInv waiting ∧ ∃ t, Machine.step waiting = .next t) ∧
    KeyWaitInv resolved ∧ ∃ t, Machine.step resolved = .next t :=
  ⟨⟨⟨fun r h => by cases h; exact ⟨rfl, by decide, by decide⟩, fun h => (nomatch h)⟩, _, rfl⟩,
    ⟨fun r h => (nomatch h), fun _ => ⟨rfl, 5, by decide, by decide⟩⟩, _, rfl⟩

theorem crashed_truthful : StepFaults crashed crashed.faultCause crashed.faultInfo := by
  refine .inr ⟨by decide, ?_⟩
  rw [show decodeWord crashed.fetchWord = .ret from by decide]
  exact ⟨rfl, rfl, rfl⟩

theorem witness_StepKeepsLatchTruthful : (LatchInv crashed ∧ ∃ t, Machine.step crashed = .next t) ∧
    LatchInv (holding 0x00 0xEE) ∧ ∃ t, Machine.step (holding 0x00 0xEE) = .next t :=
  ⟨⟨fun _ => crashed_truthful, _, rfl⟩, fun h => (nomatch h), _, rfl⟩

theorem witness_EveryInterleavingKeepsInvariants : MachineInv State.reset ∧
    ∃ t, performAll [.load [0xF5, 0x0A], .step, .tick, .keyEvent 7 true, .step, .reset] State.reset = .next t :=
  ⟨⟨rfl, by unfold StackInv; decide, ⟨fun r h => (nomatch h), fun h => (nomatch h)⟩, fun h => (nomatch h)⟩, _, rfl⟩

theorem witness_InstructionsWriteOnlyTheirParts : ∃ t, exec (.ldMemVx 15) ((at_ 0x200).setI 0xFF0) = .next t := ⟨_, rfl⟩

theorem witness_FlagRegisterWriters : (NoFault sprited ∧ (∃ t, exec (.drw 0 1 1) sprited = .next t ∧ NoFault t) ∧
    (Instr.drw 0 1 1).writesFlag = true) ∧ (∃ t, exec (.addImm 0xE 1) sprited = .next t) ∧
    (Instr.addImm 0xE 1).writesFlag = false ∧ 0xF ∉ (Instr.addImm 0xE 1).destRegs :=
  ⟨⟨rfl, ⟨_, rfl, rfl⟩, rfl⟩, ⟨_, rfl⟩, rfl, by decide⟩

theorem witness_QuirksSelectFiveInstructions : (∃ t, exec (.addI 1) (start true) = .next t) ∧
    (Instr.addI 1).readsQuirk = false := ⟨⟨_, rfl⟩, rfl⟩

theorem witness_OnlyRandomUsesRandomInput : (∃ t, exec (.addI 1) (start true) = .next t) ∧
    (Instr.addI 1).readsRandom = false := ⟨⟨_, rfl⟩, rfl⟩

theorem witness_SelfJumpChangesNothing : AtSelfJump (holding 0x12 0x00) := ⟨rfl, rfl, rfl, by decide, by decide⟩

theorem witness_StoreIsSeenByNextFetch : (∃ s t : State, NoFault s ∧ HeapInv s ∧ exec (.ldMemVx 1) s = .next t ∧ NoFault t ∧
    (s.pc + 2).toNat ≤ 0xFFE ∧ s.i = s.pc + 2) ∧ ∃ s t : State, NoFault s ∧ HeapInv s ∧ exec (.ldB 0) s = .next t ∧ NoFault t ∧
    (s.pc + 2).toNat ≤ 0xFFE ∧ s.i = s.pc + 3 :=
  ⟨⟨((at_ 0xFFC).setI 0xFFE), _, rfl, rfl, rfl, rfl, by decide, by decide⟩,
    ⟨((at_ 0x200).setI 0x203), _, rfl, rfl, rfl, rfl, by decide, by decide⟩⟩

/-- An FX33 over the low byte only of the next word: old high byte 0x61, stored hundreds digit 2 (R51, R123). -/
theorem test_store_over_one_byte : let s := (((at_ 0x200).memWrite 0x202 [0x61, 0x99]).writeV 0 255).setI 0x203
    decodeWord (wordOfBytes (byteAfterStore (.ldB 0) s 0x202) (byteAfterStore (.ldB 0) s 0x203)) = .ldImm 1 2 ∧
    (after (Machine.step (after (exec (.ldB 0) s)))).readV 1 = 2 := by decide

theorem witness_StoredRegistersLoadBack : ∃ s t u : State, ∃ x : Nibble, NoFault s ∧ HeapInv s ∧ s.i.toNat + x.val ≤ 0xFFF ∧
    exec (.ldMemVx x) s = .next t ∧ exec (.ldVxMem x) ((t.setV (Vector.replicate 16 9)).setI s.i) = .next u :=
  ⟨(at_ 0x200).setI 0xFF0, _, _, 15, rfl, rfl, by decide, rfl, rfl⟩

theorem witness_ReturnUndoesCall : ∃ s t u : State, NoFault s ∧ StackInv s ∧ s.sp.val < 16 ∧
    exec (.call 0x300) s = .next t ∧ exec .ret (t.setPc 0x344) = .next u :=
  ⟨(at_ 0x200).setCallStack 15 State.reset.stack, _, _, rfl, by unfold StackInv; decide, by decide, rfl, rfl⟩

theorem witness_DrawingTwiceErases : ∃ t u : State, NoFault sprited ∧ (0 : Nibble) ≠ 0xF ∧ (1 : Nibble) ≠ 0xF ∧
    ((1 : Nibble).val = 0 ∨ sprited.i.toNat + (1 : Nibble).val - 1 ≤ 0xFFF) ∧
    exec (.drw 0 1 1) sprited = .next t ∧ exec (.drw 0 1 1) t = .next u ∧ t.readV 0xF = 0 ∧ SpriteLit sprited 0 1 1 0 0 :=
  ⟨_, _, rfl, by decide, by decide, by decide, rfl, rfl, by decide, 0, by decide, 0, by decide, by decide⟩

end Sys2Proof.Tests
end

section
/-! What an instruction can do, said once: its fault, or a completed effect with its frame (R64, R161, R162). -/

namespace Sys2Proof

open Sys2Proof.Machine

/-- The fault instruction i raises on the state before it, if any (R162, rows 2 to 5). -/
def Instr.fault (i : Instr) (s : State) : Option Fault :=
  match i with
  | .call _ => pushFault s.sp
  | .ret => popFault s.sp
  | .drw _ _ n => indexFault s.i n.val
  | .ldB _ => indexFault s.i 3
  | .ldMemVx x | .ldVxMem x => indexFault s.i (x.val + 1)
  | .skp x | .sknp x => keyFault (s.readV x)
  | _ => none

/-- Every fault an instruction raises is one R162's table gives for it. -/
theorem Instr.instrFaults_of_fault {i : Instr} {s : State} {f : Fault} (h : i.fault s = some f) :
    InstrFaults i s f.code f.info := by
  cases i
  case call nnn =>
    obtain ⟨full, rfl⟩ := (pushFault_spec s.sp).2 f h
    exact ⟨full, rfl, rfl⟩
  case ret =>
    obtain ⟨empty, rfl⟩ := (popFault_spec s.sp).2 f h
    exact ⟨empty, rfl, rfl⟩
  case drw x y n =>
    obtain ⟨pos, high, rfl⟩ := (indexFault_spec s.i n.val).2 f h
    exact ⟨pos, by omega, rfl, rfl⟩
  case ldB x =>
    obtain ⟨-, high, rfl⟩ := (indexFault_spec s.i 3).2 f h
    exact ⟨by omega, rfl, rfl⟩
  case ldMemVx x | ldVxMem x =>
    obtain ⟨-, high, rfl⟩ := (indexFault_spec s.i (x.val + 1)).2 f h
    exact ⟨by omega, rfl, rfl⟩
  case skp x | sknp x =>
    obtain ⟨high, rfl⟩ := (keyFault_spec (s.readV x)).2 f h
    exact ⟨high, rfl, by simp [Fault.info]; omega⟩
  all_goals cases h

/-- An instruction that can fault has the latch among its parts. -/
theorem Instr.latch_mem_parts_of_fault {i : Instr} {s : State} {f : Fault} (h : i.fault s = some f) :
    .latch ∈ i.parts := by
  cases i
  case call | ret | drw | ldB | ldMemVx | ldVxMem | skp | sknp => simp [Instr.parts]
  all_goals cases h

/-- `SameExcept`, part by part. -/
theorem sameExcept_iff {ps : List Part} {s t : State} :
    SameExcept ps s t ↔
      (Part.regs ∉ ps → Part.regs.same s t) ∧ (Part.index ∉ ps → Part.index.same s t) ∧
      (Part.pc ∉ ps → Part.pc.same s t) ∧ (Part.callStack ∉ ps → Part.callStack.same s t) ∧
      (Part.heap ∉ ps → Part.heap.same s t) ∧ (Part.delayTimer ∉ ps → Part.delayTimer.same s t) ∧
      (Part.soundTimer ∉ ps → Part.soundTimer.same s t) ∧ (Part.framebuffer ∉ ps → Part.framebuffer.same s t) ∧
      (Part.keys ∉ ps → Part.keys.same s t) ∧ (Part.keyWait ∉ ps → Part.keyWait.same s t) ∧
      (Part.quirk ∉ ps → Part.quirk.same s t) ∧ (Part.latch ∉ ps → Part.latch.same s t) ∧
      (Part.draws ∉ ps → Part.draws.same s t) := by
  constructor
  · intro h
    exact ⟨h _, h _, h _, h _, h _, h _, h _, h _, h _, h _, h _, h _, h _⟩
  · rintro ⟨regs, index, pc, callStack, heap, delay, sound, framebuffer, keys, keyWait, quirk, latch, draws⟩ p hp
    cases p
    exacts [regs hp, index hp, pc hp, callStack hp, heap hp, delay hp, sound hp, framebuffer hp, keys hp, keyWait hp,
      quirk hp, latch hp, draws hp]

/-- t is what instruction i makes of s when it does not fault, as far as its frame and its store go. -/
structure Instr.Completes (i : Instr) (s t : State) : Prop where
  frame : SameExcept i.parts s t
  latch : Part.latch.same s t
  heap : t.heap = s.heap.writeBytes s.i.toNat (i.storedBytes s)

/-- FX0A as updates: a resolved wait goes on, any other wait is entered or kept at the same PC (R148). -/
theorem execLdVxK_eq (x : Nibble) (s : State) :
    execLdVxK x s = .next ((s.setKeyWait (if s.keyWaitResolved then s.awaitingKeyRegister else some x) false).setPc
      (if s.keyWaitResolved then s.pc + 2 else s.pc)) := by
  unfold execLdVxK
  cases resolved : s.keyWaitResolved
  case true => rfl
  case false =>
    have back : s.pc + 2 - 2 = s.pc := BitVec.add_sub_cancel s.pc 2
    exact congrArg (fun p => Host.Outcome.next ((s.setKeyWait (some x) false).setPc p)) back

/-- Every instruction answers its fault on the state before it, or else a completed effect (R64, R161). -/
theorem exec_eq_guarded (i : Instr) (s : State) : ∃ u, exec i s = guarded (i.fault s) s u ∧ i.Completes s u := by
  cases i
  case ldVxK x =>
    refine ⟨_, execLdVxK_eq x s, ?_, ?_, ?_⟩
    · simp [sameExcept_iff, Part.same, Instr.parts]
    · simp [Part.same]
    · rfl
  all_goals
    refine ⟨_, rfl, ?_, ?_, ?_⟩
    · simp [sameExcept_iff, Part.same, Instr.parts, State.pushPc, State.popPc, State.loadRegs]
    · simp [Part.same, State.pushPc, State.popPc, State.loadRegs]
    · simp [Instr.storedBytes, Memory.writeBytes, State.pushPc, State.popPc, State.loadRegs]

/-- Everything an instruction can do: raise its fault and nothing else, or complete (R161). -/
theorem exec_cases {i : Instr} {s t : State} (h : exec i s = .next t) :
    (∃ f, i.fault s = some f ∧ t = s.raise f) ∨ (i.fault s = none ∧ i.Completes s t) := by
  obtain ⟨u, answer, completes⟩ := exec_eq_guarded i s
  rw [answer] at h
  obtain fault | ⟨clear, rfl⟩ := guarded_cases h
  · exact .inl fault
  · exact .inr ⟨clear, completes⟩

/-- An instruction writes no part but its own, whether it faults or completes (R25). -/
theorem exec_sameExcept_parts {i : Instr} {s t : State} (h : exec i s = .next t) : SameExcept i.parts s t := by
  obtain ⟨f, raised, rfl⟩ | ⟨-, completes⟩ := exec_cases h
  · refine (SameExcept.of_setLatch s f.code f.info).mono ?_
    simpa using Instr.latch_mem_parts_of_fault raised
  · exact completes.frame

theorem Instr.callStack_mem_parts {i : Instr} (h : .callStack ∈ i.parts) : i = .ret ∨ ∃ nnn, i = .call nnn := by
  cases i <;> simp_all [Instr.parts]

theorem Instr.keyWait_mem_parts {i : Instr} (h : .keyWait ∈ i.parts) : ∃ x, i = .ldVxK x := by
  cases i <;> simp_all [Instr.parts]

/-- An instruction that does not fault stores inside the heap, or stores nothing (R46). -/
theorem Instr.storedBytes_fit {i : Instr} {s : State} (h : i.fault s = none) :
    i.storedBytes s = [] ∨ s.i.toNat + (i.storedBytes s).length ≤ Config.heapSize := by
  cases i
  case ldB x => exact .inr (((indexFault_spec s.i 3).1.1 h).resolve_left (by decide))
  case ldMemVx x =>
    right
    rw [Instr.storedBytes, length_regsUpTo]
    exact ((indexFault_spec s.i (x.val + 1)).1.1 h).resolve_left (by omega)
  all_goals exact .inl rfl

end Sys2Proof
end

section
/-! Each invariant is kept by every instruction, by every step and by every operation of the host (R5, R14, R20, R48, R162). -/

namespace Sys2Proof

open Sys2Proof.Machine

variable {s t : State}

/-! ### The heap -/

/-- Every instruction keeps the canonical heap (R48, log 5). -/
theorem heapInv_exec {i : Instr} (inv : HeapInv s) (h : exec i s = .next t) : HeapInv t := by
  obtain ⟨f, -, rfl⟩ | ⟨clear, completes⟩ := exec_cases h
  · exact inv
  · rw [HeapInv, completes.heap]
    obtain none | inside := Instr.storedBytes_fit clear
    · rw [none]; exact inv
    · exact Memory.wf_writeBytes inv inside

theorem heapInv_step (inv : HeapInv s) (h : step s = .next t) : HeapInv t := by
  obtain ⟨-, rfl⟩ | ⟨-, -, rfl⟩ | ⟨-, -, run⟩ := step_cases h
  · exact inv
  · exact inv
  · exact heapInv_exec inv run

/-! ### The call stack -/

/-- A push fills the entry at SP and moves SP past it (R83). -/
theorem stackInv_pushPc (inv : StackInv s) (room : s.sp.val < 16) : StackInv s.pushPc := by
  obtain ⟨sp, stack⟩ := pushPc_spec s room
  intro k hk
  rw [stack, if_neg (by omega)]
  exact inv k (by omega)

/-- A pop zeroes the entry it uncovers (R81). -/
theorem stackInv_popPc (inv : StackInv s) (used : 0 < s.sp.val) : StackInv s.popPc := by
  obtain ⟨sp, stack, -⟩ := popPc_spec s used
  intro k hk
  rw [stack]
  split
  · rfl
  · exact inv k (by omega)

theorem stackInv_of_same (inv : StackInv s) (same : Part.callStack.same s t) : StackInv t := by
  obtain ⟨sp, stack⟩ := same
  intro k hk
  rw [stack]
  exact inv k (sp ▸ hk)

/-- Only RET and CALL touch the call stack, and each keeps its dead entries 0 (R14). -/
theorem stackInv_exec {i : Instr} (inv : StackInv s) (h : exec i s = .next t) : StackInv t := by
  by_cases touched : .callStack ∈ i.parts
  · obtain rfl | ⟨nnn, rfl⟩ := Instr.callStack_mem_parts touched
    · obtain ⟨f, -, rfl⟩ | ⟨clear, rfl⟩ := guarded_cases h
      · exact inv
      · exact stackInv_popPc (s := s.advance) inv ((popFault_spec s.sp).1.1 clear)
    · obtain ⟨f, -, rfl⟩ | ⟨clear, rfl⟩ := guarded_cases h
      · exact inv
      · exact stackInv_pushPc (s := s.advance) inv ((pushFault_spec s.sp).1.1 clear)
  · exact stackInv_of_same inv (exec_sameExcept_parts h _ touched)

theorem stackInv_step (inv : StackInv s) (h : step s = .next t) : StackInv t := by
  obtain ⟨-, rfl⟩ | ⟨-, -, rfl⟩ | ⟨-, -, run⟩ := step_cases h
  · exact inv
  · exact inv
  · exact stackInv_exec inv run

/-! ### The key-wait -/

theorem keyWaitInv_of_idle (latch : s.awaitingKeyRegister = none) (bit : s.keyWaitResolved = false) : KeyWaitInv s := by
  simp [KeyWaitInv, latch, bit]

/-- A machine that is not at an FX0A is in no wait (R20, R174). -/
theorem idle_of_not_atKeyWait (inv : KeyWaitInv s) (away : ∀ x, ¬ AtKeyWait x s) :
    s.awaitingKeyRegister = none ∧ s.keyWaitResolved = false := by
  obtain ⟨pending, resolved⟩ := inv
  constructor
  · exact Option.eq_none_iff_forall_ne_some.2 fun r wait => away r (pending r wait).2
  · refine Bool.eq_false_iff.2 fun bit => ?_
    obtain ⟨-, x, atWait⟩ := resolved bit
    exact away x atWait

/-- A step at an FX0A ends a resolved wait; any other it leaves pending, in that FX0A's register (R148). -/
theorem keyWaitInv_exec_ldVxK {x : Nibble} (inv : KeyWaitInv s) (here : AtKeyWait x s)
    (h : exec (.ldVxK x) s = .next t) : KeyWaitInv t := by
  obtain rfl := Host.Outcome.next.inj ((execLdVxK_eq x s).symm.trans h)
  obtain ⟨-, resolved⟩ := inv
  cases bit : s.keyWaitResolved
  case true => exact keyWaitInv_of_idle (by simpa [bit] using (resolved bit).1) rfl
  case false =>
    simp only [Bool.false_eq_true, if_false]
    refine ⟨fun r wait => ⟨rfl, ?_⟩, fun h => nomatch h⟩
    obtain rfl : x = r := by simpa using wait
    exact here

/-- Only FX0A touches the key-wait; every other instruction runs with none pending (R20, R174). -/
theorem keyWaitInv_step (inv : KeyWaitInv s) (h : step s = .next t) : KeyWaitInv t := by
  obtain ⟨-, rfl⟩ | ⟨-, -, rfl⟩ | ⟨-, fetchable, run⟩ := step_cases h
  · exact inv
  · exact inv
  by_cases touched : .keyWait ∈ (decodeWord s.fetchWord).parts
  · obtain ⟨x, decoded⟩ := Instr.keyWait_mem_parts touched
    rw [decoded] at run
    exact keyWaitInv_exec_ldVxK inv ⟨fetchable, decoded⟩ run
  · have away : ∀ x, ¬ AtKeyWait x s := fun x atWait => touched (by simp [atWait.2, Instr.parts])
    obtain ⟨latch, bit⟩ := idle_of_not_atKeyWait inv away
    obtain ⟨sameLatch, sameBit⟩ := exec_sameExcept_parts run _ touched
    exact keyWaitInv_of_idle (sameLatch.trans latch) (sameBit.trans bit)

/-! ### The fault latch -/

theorem latchInv_of_noFault (clear : NoFault s) : LatchInv s := fun set => by
  rw [clear] at set
  cases set

/-- A step records only the fault its state must raise (R162, R164). -/
theorem latchInv_step (inv : LatchInv s) (h : step s = .next t) : LatchInv t := by
  obtain ⟨-, rfl⟩ | ⟨-, high, rfl⟩ | ⟨clear, fetchable, run⟩ := step_cases h
  · exact inv
  · exact fun _ => .inl ⟨high, rfl, rfl⟩
  obtain ⟨f, raised, rfl⟩ | ⟨-, completes⟩ := exec_cases run
  · exact fun _ => .inr ⟨fetchable, Instr.instrFaults_of_fault raised⟩
  · exact latchInv_of_noFault (completes.latch.1.trans clear)

/-! ### The four together, operation by operation -/

theorem machineInv_step (inv : MachineInv s) (h : step s = .next t) : MachineInv t := by
  obtain ⟨heap, stack, wait, latch⟩ := inv
  exact ⟨heapInv_step heap h, stackInv_step stack h, keyWaitInv_step wait h, latchInv_step latch h⟩

/-- Everything a tick can do (R171). -/
theorem tick_cases (h : tick s = .next t) :
    NoFault s ∧ t = (s.setDt (countDown s.dt)).setSt (countDown s.st) := by
  unfold tick at h
  split at h
  · cases h
  · rename_i clear
    exact ⟨Bool.eq_false_iff.2 clear, by cases h; rfl⟩

theorem machineInv_tick (inv : MachineInv s) (h : tick s = .next t) : MachineInv t := by
  obtain ⟨clear, rfl⟩ := tick_cases h
  obtain ⟨heap, stack, wait, -⟩ := inv
  exact ⟨heap, stack, wait, latchInv_of_noFault clear⟩

/-- Everything a key event can do (R173). -/
theorem keyEvent_cases {k : Nibble} {pressed : Bool} (h : keyEvent k pressed s = .next t) :
    NoFault s ∧
      ((pressed = false ∧ t = s.setKey k false) ∨
       (pressed = true ∧ s.awaitingKeyRegister = none ∧ t = s.setKey k true) ∨
       ∃ r, pressed = true ∧ s.awaitingKeyRegister = some r ∧
        t = (s.writeV r (BitVec.ofNat 8 k.val)).setKeyWait none true) := by
  unfold keyEvent at h
  split at h
  · cases h
  rename_i clear
  refine ⟨Bool.eq_false_iff.2 clear, ?_⟩
  obtain rfl := Host.Outcome.next.inj h
  unfold State.keyEventEffect
  cases pressed
  case false => exact .inl ⟨rfl, rfl⟩
  case true =>
    cases s.awaitingKeyRegister
    case none => exact .inr (.inl ⟨rfl, rfl, rfl⟩)
    case some r => exact .inr (.inr ⟨r, rfl, rfl, rfl⟩)

/-- A press that ends a wait leaves PC at the FX0A that waited, as the resolved bit demands (R20, R173). -/
theorem machineInv_keyEvent {k : Nibble} {pressed : Bool} (inv : MachineInv s) (h : keyEvent k pressed s = .next t) :
    MachineInv t := by
  obtain ⟨heap, stack, wait, -⟩ := inv
  obtain ⟨clear, outcome⟩ := keyEvent_cases h
  obtain ⟨-, rfl⟩ | ⟨-, -, rfl⟩ | ⟨r, -, waiting, rfl⟩ := outcome
  · exact ⟨heap, stack, wait, latchInv_of_noFault clear⟩
  · exact ⟨heap, stack, wait, latchInv_of_noFault clear⟩
  · obtain ⟨-, atWait⟩ := wait.1 r waiting
    exact ⟨heap, stack, ⟨fun _ h => (nomatch h), fun _ => ⟨rfl, r, atWait⟩⟩, latchInv_of_noFault clear⟩

/-- The reset operation establishes the invariants on any state (R185). -/
theorem machineInv_hostReset (s : State) : MachineInv (hostReset s) := by
  refine ⟨rfl, fun k _ => ?_, keyWaitInv_of_idle rfl rfl, latchInv_of_noFault rfl⟩
  simp [hostReset, State.resetWith]

/-- A load writes PC and the heap, and nothing else (R187). -/
theorem sameExcept_install (s : State) (image : List Byte) : SameExcept [.pc, .heap] s (s.install image) := by
  simp [sameExcept_iff, Part.same, State.install]

theorem heap_install (s : State) (image : List Byte) :
    (s.install image).heap =
      (s.heap.writeBytes Config.loadBase image).writeBytes Config.fontBase Config.font := by
  simp [State.install]

/-- The image and the font lie inside the heap (R187, R189). -/
theorem heapInv_install {image : List Byte} (inv : HeapInv s) (fits : image.length ≤ Config.maxImage) :
    HeapInv (s.install image) := by
  have imageInside : Config.loadBase + image.length ≤ Config.heapSize := by
    simp only [Config.maxImage, Config.loadBase, Config.heapSize] at *
    omega
  have fontInside : Config.fontBase + Config.font.length ≤ Config.heapSize := by
    rw [length_font]
    decide
  rw [HeapInv, heap_install]
  exact Memory.wf_writeBytes (Memory.wf_writeBytes inv imageInside) fontInside

/-- A load starts from the reset state, where no wait is pending (R187). -/
theorem machineInv_load {image : List Byte} (inv : MachineInv s) (h : load image s = .next t) : MachineInv t := by
  obtain ⟨-, e⟩ | ⟨-, -, e⟩ | ⟨clear, inReset, fits, e⟩ | ⟨-, -, -, e⟩ := load_cases image s <;> rw [e] at h
  · cases h
  · cases h
  · obtain rfl := Host.Outcome.next.inj h
    obtain ⟨heap, stack, -, -⟩ := inv
    have atReset := (inResetState_spec inReset).1
    have waiting : s.awaitingKeyRegister = none := by rw [atReset]; rfl
    have resolved : s.keyWaitResolved = false := by rw [atReset]; rfl
    have frame := sameExcept_install s image
    have sameStack := frame .callStack (by decide)
    obtain ⟨sameLatch, sameBit⟩ := frame .keyWait (by decide)
    obtain ⟨sameFault, -⟩ := frame .latch (by decide)
    exact ⟨heapInv_install heap fits, stackInv_of_same stack sameStack,
      keyWaitInv_of_idle (sameLatch.trans waiting) (sameBit.trans resolved), latchInv_of_noFault (sameFault.trans clear)⟩
  · obtain rfl := Host.Outcome.next.inj h
    exact inv

/-- Each of the five operations keeps the invariants (R5). -/
theorem machineInv_perform (op : HostOp) (inv : MachineInv s) (h : perform op s = .next t) : MachineInv t := by
  cases op with
  | step => exact machineInv_step inv h
  | tick => exact machineInv_tick inv h
  | keyEvent k pressed => exact machineInv_keyEvent inv h
  | load image => exact machineInv_load inv h
  | reset =>
    obtain rfl := Host.Outcome.next.inj h
    exact machineInv_hostReset s

/-! ### Runs -/

/-- A run of the host's operations has a meaning when its first has one and the rest has one from there (R5). -/
theorem performAll_cons {op : HostOp} {ops : List HostOp} :
    performAll (op :: ops) s = .next t ↔ ∃ u, perform op s = .next u ∧ performAll ops u = .next t := by
  rw [performAll]
  cases perform op s <;> simp

/-- What each operation keeps, every run keeps. -/
theorem performAll_keeps {P : State → Prop} (keep : ∀ op s t, P s → perform op s = .next t → P t) (ops : List HostOp)
    (start : P s) (h : performAll ops s = .next t) : P t := by
  induction ops generalizing s with
  | nil =>
    obtain rfl := Host.Outcome.next.inj h
    exact start
  | cons op ops ih =>
    obtain ⟨u, first, rest⟩ := performAll_cons.1 h
    exact ih (keep op s u start first) rest

end Sys2Proof
end

section
open Sys2Proof Sys2Proof.Machine

/-- Settles O50: each of the five operations keeps the four invariants, and so does a run of them, by induction on the run. -/
theorem everyInterleavingKeepsInvariants : Obligations.EveryInterleavingKeepsInvariants := fun ops _ _ inv run =>
  performAll_keeps (fun op _ _ => machineInv_perform op) ops inv run

end

section
/-! What one instruction does to the general registers, to the quirk booleans and to the call stack, and what the reset state
holds (R10, R11, R14, R21, R25). -/

namespace Sys2Proof

open Sys2Proof.Machine

variable {i : Instr} {s t : State}

/-! ### General registers -/

/-- A flagged result writes its destination and VF, and no other register (R112). -/
theorem regsSameExcept_writeVFlag (s : State) (x : Nibble) (b : Byte) (c : Bool) :
    RegsSameExcept [x, 15] s (s.writeVFlag x b c) := by
  intro q hq
  obtain ⟨notX, notVf⟩ : q ≠ x ∧ q ≠ 15 := by simpa using hq
  rw [readV_writeVFlag, if_neg notVf, if_neg notX]

theorem mem_regsThrough {x r : Nibble} : r ∈ regsThrough x ↔ r.val ≤ x.val := by
  simp [regsThrough]

/-- A block load writes V[0] to V[x] only (R125). -/
theorem regsSameExcept_loadRegs (s : State) (a : Nat) (x : Nibble) :
    RegsSameExcept (regsThrough x) s (s.loadRegs a x) := by
  intro q hq
  rw [readV_loadRegs, if_neg (mem_regsThrough.not.1 hq)]

/-- An instruction writes no register but its destinations, whether it faults or completes (R10, R11). -/
theorem exec_regsSameExcept_destRegs (h : exec i s = .next t) : RegsSameExcept i.destRegs s t := by
  by_cases writes : .regs ∈ i.parts
  case neg => exact fun r _ => exec_sameExcept_parts h _ writes r
  cases i
  case ldImm x _ | addImm x _ | ldReg x _ | orReg x _ | andReg x _ | xorReg x _ | rnd x _ | ldVxDt x =>
    obtain rfl := Host.Outcome.next.inj h
    exact RegsSameExcept_writeV s x _
  case addReg x _ | sub x _ | shr x _ | subn x _ | shl x _ =>
    obtain rfl := Host.Outcome.next.inj h
    exact regsSameExcept_writeVFlag s.advance x _ _
  case drw x y n =>
    obtain ⟨f, -, rfl⟩ | ⟨-, rfl⟩ := guarded_cases h
    · exact fun _ _ => rfl
    · exact RegsSameExcept_writeV s 15 _
  case ldVxMem x =>
    obtain ⟨f, -, rfl⟩ | ⟨-, rfl⟩ := guarded_cases h
    · exact fun _ _ => rfl
    · rw [State.bumpIndex_eq]
      exact regsSameExcept_loadRegs s.advance s.i.toNat x
  all_goals simp [Instr.parts] at writes

/-! ### The flag register -/

/-- VF written as a flag is 0 or 1 (R11). -/
theorem readV_vf_setFlag_cases (s : State) (c : Bool) : (s.setFlag c).readV 15 = 0 ∨ (s.setFlag c).readV 15 = 1 := by
  rw [State.setFlag, readV_writeV, if_pos vf_eq.symm]
  exact flagByte_cases c

/-- Every flag writer that does not fault ends by writing VF as a flag (R11, R112). -/
theorem vf_of_writesFlag (writer : i.writesFlag = true) (h : exec i s = .next t) (clear : NoFault t) :
    t.readV 15 = 0 ∨ t.readV 15 = 1 := by
  cases i
  case addReg | sub | subn | shr | shl =>
    obtain rfl := Host.Outcome.next.inj h
    exact readV_vf_setFlag_cases _ _
  case drw x y n =>
    obtain ⟨f, -, rfl⟩ | ⟨-, rfl⟩ := guarded_cases h
    · cases clear
    · exact readV_vf_setFlag_cases _ _
  all_goals cases writer

/-! ### The quirk booleans -/

theorem Instr.quirk_not_mem_parts (i : Instr) : .quirk ∉ i.parts := by
  cases i <;> simp [Instr.parts]

/-- What a guarded instruction answers under an update that commutes with the latch: the update of what it answers without. -/
theorem guarded_map {f : Option Fault} {before after : State} (g : State → State)
    (commutes : ∀ f, g (before.raise f) = (g before).raise f) (h : guarded f before after = .next t) :
    guarded f (g before) (g after) = .next (g t) := by
  obtain ⟨f, rfl, rfl⟩ | ⟨rfl, rfl⟩ := guarded_cases h
  · exact congrArg Host.Outcome.next (commutes f).symm
  · rfl

theorem skipIf_withQuirk (s : State) (c : Bool) (q : Quirks) :
    ({ s with quirk := q }).skipIf c = { s.skipIf c with quirk := q } := by
  cases c <;> rfl

/-- An instruction that reads no quirk boolean answers the same under all of them (R21). -/
theorem exec_withQuirk (free : i.readsQuirk = false) (h : exec i s = .next t) (q : Quirks) :
    exec i { s with quirk := q } = .next { t with quirk := q } := by
  cases i
  case shr | shl | jpOff | ldMemVx | ldVxMem => cases free
  case seImm | sneImm | seReg | sneReg =>
    obtain rfl := Host.Outcome.next.inj h
    exact congrArg Host.Outcome.next (skipIf_withQuirk s.advance _ q)
  case ldVxK x =>
    obtain rfl := Host.Outcome.next.inj ((execLdVxK_eq x s).symm.trans h)
    exact execLdVxK_eq x _
  case skp x | sknp x =>
    have mapped := guarded_map (fun s => { s with quirk := q }) (fun _ => rfl) h
    rw [← skipIf_withQuirk] at mapped
    exact mapped
  case call | ret | drw | ldB => exact guarded_map (fun s => { s with quirk := q }) (fun _ => rfl) h
  all_goals
    obtain rfl := Host.Outcome.next.inj h
    rfl

/-! ### The call stack -/

/-- CALL with room on the stack (R83). -/
theorem exec_call_of_room (nnn : Addr12) (room : s.sp.val < 16) :
    exec (.call nnn) s = .next (s.advance.pushPc.setPc (immAddr nnn)) := by
  have clear : pushFault s.sp = none := (pushFault_spec s.sp).1.2 room
  exact congrArg (guarded · s _) clear

/-- RET with an entry on the stack (R81). -/
theorem exec_ret_of_used (used : 0 < s.sp.val) : exec .ret s = .next s.advance.popPc := by
  have clear : popFault s.sp = none := (popFault_spec s.sp).1.2 used
  exact congrArg (guarded · s _) clear

/-- A pop undoes a push, PC included: the entry it zeroes was 0 before the push (R14, R81, R83). -/
theorem popPc_pushPc (inv : StackInv s) (room : s.sp.val < 16) (p : Word) : (s.pushPc.setPc p).popPc = s := by
  obtain ⟨pushedSp, pushedStack⟩ := pushPc_spec s room
  have top : ∀ k : Nibble, k.val + 1 = s.pushPc.sp.val ↔ k.val = s.sp.val := fun k => by omega
  obtain ⟨sp, stack, pc⟩ := popPc_spec (s.pushPc.setPc p) (by rw [State.setPc_sp]; omega)
  simp only [State.setPc_sp, State.setPc_stack, top, pushedStack] at sp stack pc
  have sameSp : (s.pushPc.setPc p).popPc.sp = s.sp := Fin.ext (by omega)
  have sameStack : (s.pushPc.setPc p).popPc.stack = s.stack := by
    refine Vector.ext fun n hn => (stack ⟨n, hn⟩).trans ?_
    split
    · rename_i atSp
      exact (inv ⟨n, hn⟩ atSp.ge).symm
    · rfl
  have samePc : (s.pushPc.setPc p).popPc.pc = s.pc := by simpa using pc ⟨s.sp.val, room⟩
  calc (s.pushPc.setPc p).popPc
      = (s.setCallStack (s.pushPc.setPc p).popPc.sp (s.pushPc.setPc p).popPc.stack).setPc (s.pushPc.setPc p).popPc.pc := rfl
    _ = s := by rw [sameSp, sameStack, samePc]; rfl

/-! ### The reset state -/

theorem readV_resetWith (q : Quirks) (r : Nibble) : (State.resetWith q).readV r = 0 := by
  simp [State.resetWith, State.readV]

theorem stack_resetWith (q : Quirks) (k : Nibble) : (State.resetWith q).stack[k] = 0 := by
  simp [State.resetWith]

theorem keyDown_resetWith (q : Quirks) (k : Nibble) : (State.resetWith q).keyDown k = false := by
  simp [State.resetWith, State.keyDown]

theorem machineInv_resetWith (q : Quirks) : MachineInv (State.resetWith q) := machineInv_hostReset (State.resetWith q)

end Sys2Proof
end

section
open Sys2Proof Sys2Proof.Machine

/-- Settles O46: only RET and CALL touch the call stack; a pop zeroes the entry it uncovers, a push fills the one it covers. -/
theorem stepKeepsDeadStackZero : Obligations.StepKeepsDeadStackZero := fun _ _ => stackInv_step

/-- Settles O47: only FX0A touches the key-wait, and a pending or resolved wait stands at an FX0A. -/
theorem stepKeepsKeyWaitAtItsInstruction : Obligations.StepKeepsKeyWaitAtItsInstruction := fun _ _ => keyWaitInv_step

/-- Settles O51, by the frame of each instruction, on the parts and on the registers. -/
theorem instructionsWriteOnlyTheirParts : Obligations.InstructionsWriteOnlyTheirParts := fun _ _ _ h =>
  ⟨exec_sameExcept_parts h, exec_regsSameExcept_destRegs h⟩

/-- Settles O52: a flag writer ends by writing VF as a flag, and every other instruction keeps to its destinations. -/
theorem flagRegisterWriters : Obligations.FlagRegisterWriters := fun _ _ _ _ h =>
  ⟨fun writer clear => vf_of_writesFlag writer h clear, fun _ other => exec_regsSameExcept_destRegs h _ other⟩

/-- Settles O53: the quirk booleans are a part of no instruction's, and a meaning that does not read them commutes with writing
them. -/
theorem quirksSelectFiveInstructions : Obligations.QuirksSelectFiveInstructions := fun i _ _ h =>
  ⟨exec_sameExcept_parts h _ i.quirk_not_mem_parts, fun free q => exec_withQuirk free h q⟩

/-- Settles O58: the pop of RET undoes the push of CALL, which leaves the state before the CALL with PC advanced. -/
theorem returnUndoesCall : Obligations.ReturnUndoesCall := by
  intro s t u nnn p _ inv room call ret
  rw [exec_call_of_room nnn room] at call
  obtain rfl := Host.Outcome.next.inj call
  have used : 0 < s.advance.pushPc.sp.val := (pushPc_spec s.advance room).1 ▸ Nat.succ_pos _
  have popped := exec_ret_of_used (s := (s.advance.pushPc.setPc (immAddr nnn)).setPc p) used
  have restored : (s.advance.pushPc.setPc (p + 2)).popPc = s.advance := popPc_pushPc (s := s.advance) inv room (p + 2)
  have back : u = s.advance := Host.Outcome.next.inj (ret.symm.trans (popped.trans (congrArg Host.Outcome.next restored)))
  subst back
  exact ⟨rfl, SameExcept.of_setPc s _⟩

/-- Settles O39: State.reset is the reset state of one setting of the quirk booleans, and each field of that state is its zero. -/
theorem resetStateValues : Obligations.ResetStateValues := by
  refine ⟨fun q => ⟨rfl, rfl⟩, fun q s isReset => ?_⟩
  obtain ⟨q', rfl⟩ : ∃ q', s = State.resetWith q' := isReset.elim (fun h => ⟨q, h⟩) fun h => ⟨_, h⟩
  exact ⟨readV_resetWith q', rfl, rfl, rfl, stack_resetWith q', fun _ => rfl, rfl, rfl, Framebuffer.cell_blank,
    keyDown_resetWith q', rfl, rfl, rfl⟩

/-- Settles O49: the reset state is what the reset operation answers on it, and that meets the invariants. -/
theorem invariantsHoldAtReset : Obligations.InvariantsHoldAtReset := fun q =>
  ⟨machineInv_resetWith q, machineInv_resetWith _⟩

end

section
/-! What the heap reads, and where PC stands, after a store that did not fault (R46, R51, R123, R124). -/

namespace Sys2Proof

open Sys2Proof.Machine

variable {i : Instr} {s t : State}

/-- An instruction that leaves the latch clear has completed (R161). -/
theorem completes_of_noFault (h : exec i s = .next t) (clear : NoFault t) : i.fault s = none ∧ i.Completes s t := by
  obtain ⟨f, -, rfl⟩ | completed := exec_cases h
  · cases clear
  · exact completed

/-- After an instruction that did not fault every address reads the byte stored there, or the old one (R46, R48). -/
theorem memRead_of_exec (inv : HeapInv s) (h : exec i s = .next t) (clear : NoFault t) (a : Nat) :
    t.memRead a = byteAfterStore i s a := by
  obtain ⟨unfaulted, completes⟩ := completes_of_noFault h clear
  rw [State.memRead, completes.heap, byteAfterStore]
  obtain nothing | inside := Instr.storedBytes_fit unfaulted
  · simp [nothing, Memory.writeBytes, State.heap_read]
  · exact Memory.read_writeBytes inv inside a

/-- The next fetch after an instruction that did not fault takes its two bytes, each on its own, from what was stored (R41, R51). -/
theorem fetchWord_of_exec (inv : HeapInv s) (h : exec i s = .next t) (clear : NoFault t) :
    t.fetchWord = wordOfBytes (byteAfterStore i s t.pc.toNat) (byteAfterStore i s (t.pc.toNat + 1)) := by
  rw [State.fetchWord, memRead_of_exec inv h clear, memRead_of_exec inv h clear]

/-- A store that did not fault goes on to the next word (R64, R123, R124). -/
theorem pc_of_store {x : Nibble} (store : i = .ldB x ∨ i = .ldMemVx x) (h : exec i s = .next t) (clear : NoFault t) :
    t.pc = s.pc + 2 := by
  obtain rfl | rfl := store
  · obtain ⟨f, -, rfl⟩ | ⟨-, rfl⟩ := guarded_cases h
    · cases clear
    · rfl
  · obtain ⟨f, -, rfl⟩ | ⟨-, rfl⟩ := guarded_cases h
    · cases clear
    · rw [State.bumpIndex_eq]
      rfl

end Sys2Proof
end

section
open Sys2Proof Sys2Proof.Machine

/-- Settles O45: an instruction stores inside the address space or not at all, and a step that runs none leaves the heap alone. -/
theorem stepKeepsHeapCanonical : Obligations.StepKeepsHeapCanonical := fun _ _ => heapInv_step

/-- Settles O56: the next step fetches at PC + 2, where each byte is the one stored or the old one. -/
theorem storeIsSeenByNextFetch : Obligations.StoreIsSeenByNextFetch := by
  intro s t i x _ inv store run clear fetchable
  have pc : t.pc = s.pc + 2 := pc_of_store store run clear
  rw [step_eq_exec clear (pc ▸ fetchable), fetchWord_of_exec inv run clear, pc]

end

section
/-! The encoder and the decoder undo each other (R60, R61, R66): a word of each format selects by its own fields, and what is
selected is well-formed and holds every field of the word. -/

namespace Sys2Proof

variable {op : Nat}

/-! ### Decoding a word of each format -/

theorem decodeWord_wordNNN {nnn : Addr12} {i : Instr} (h : op < 16)
    (sel : ∀ f : Fields, f.opcode.val = op → f.nnn = nnn → select f = i) :
    decodeWord (BitVec.ofNat 16 (wordNNN op nnn)) = i := by
  obtain ⟨opcode, rest⟩ := fieldsOf_wordNNN h nnn
  exact sel _ opcode rest

theorem decodeWord_wordXNN {x : Nibble} {nn : Byte} {i : Instr} (h : op < 16)
    (sel : ∀ f : Fields, f.opcode.val = op → f.x = x → f.nn = nn → select f = i) :
    decodeWord (BitVec.ofNat 16 (wordXNN op x nn)) = i := by
  obtain ⟨opcode, dest, rest⟩ := fieldsOf_wordXNN h x nn
  exact sel _ opcode dest rest

theorem decodeWord_wordXYN {x y n : Nibble} {i : Instr} (h : op < 16)
    (sel : ∀ f : Fields, f.opcode.val = op → f.x = x → f.y = y → f.n = n → select f = i) :
    decodeWord (BitVec.ofNat 16 (wordXYN op x y n)) = i := by
  obtain ⟨opcode, dest, source, rest⟩ := fieldsOf_wordXYN h x y n
  exact sel _ opcode dest source rest

/-- Each instruction's word, format by format, decodes to it; a fallback row is reached because it carries no assigned
selector. -/
theorem decodeWord_encode {i : Instr} (wf : i.wellFormed = true) : decodeWord (encode i) = i := by
  cases i
  case cls | ret => decide
  case jp | call | ldI | jpOff | nop0 =>
    refine decodeWord_wordNNN (by decide) fun f opcode rest => ?_
    simp_all [select, select0, Instr.wellFormed]
  case seImm | sneImm | ldImm | addImm | rnd | skp | sknp | ldVxDt | ldVxK | ldDtVx | ldStVx | addI | ldF | ldB | ldMemVx
      | ldVxMem | nopE | nopF =>
    refine decodeWord_wordXNN (by decide) fun f opcode dest rest => ?_
    simp_all [select, selectE, selectF, Instr.wellFormed, selectorsE, selectorsF]
  case seReg | sneReg | drw | ldReg | orReg | andReg | xorReg | addReg | sub | shr | subn | shl | nop8 =>
    refine decodeWord_wordXYN (by decide) fun f opcode dest source rest => ?_
    simp_all [select, select8, Instr.wellFormed, selectors8, Fin.ext_iff, -Fin.val_eq_zero_iff]

/-- The two bytes of a number, put together again (R41). -/
theorem wordOfBytes_ofNat {n : Nat} (h : n < 65536) :
    wordOfBytes (BitVec.ofNat 8 (n / 256)) (BitVec.ofNat 8 n) = BitVec.ofNat 16 n := by
  apply BitVec.eq_of_toNat_eq
  rw [toNat_wordOfBytes]
  simp only [BitVec.toNat_ofNat]
  omega

theorem decodeBytes_encodeBytes {i : Instr} (wf : i.wellFormed = true) (rest : List Byte) :
    decodeBytes (encodeBytes i ++ rest) = .ok (i, rest) := by
  have word : decodeWord (wordOfBytes (BitVec.ofNat 8 (encodeNat i / 256)) (BitVec.ofNat 8 (encodeNat i))) = i := by
    rw [wordOfBytes_ofNat (encodeNat_lt i)]
    exact decodeWord_encode wf
  exact congrArg (fun j => Except.ok (j, rest)) word

theorem decodes_encodeNat {i : Instr} (wf : i.wellFormed = true) : Decodes (encodeNat i) i :=
  (decodeTableWord_eq (encodeNat_lt i)).trans (congrArg some (decodeWord_encode wf))

/-! ### Encoding what was selected -/

variable (f : Fields)

/-- Each secondary selection answers a well-formed instruction, whose word has the opcode's format and holds the fields. -/
theorem select0_spec : (select0 f).wellFormed = true ∧ encodeNat (select0 f) = wordNNN 0x0 f.nnn := by
  unfold select0
  split_ifs <;> simp_all [Instr.wellFormed, encodeNat, wordNNN]

theorem select8_spec : (select8 f).wellFormed = true ∧ encodeNat (select8 f) = wordXYN 0x8 f.x f.y f.n := by
  unfold select8
  split_ifs <;> simp_all [Instr.wellFormed, selectors8, encodeNat, wordXYN, Fin.ext_iff, -Fin.val_eq_zero_iff]

theorem selectE_spec : (selectE f).wellFormed = true ∧ encodeNat (selectE f) = wordXNN 0xE f.x f.nn := by
  unfold selectE
  split_ifs <;> simp_all [Instr.wellFormed, selectorsE, encodeNat]

theorem selectF_spec : (selectF f).wellFormed = true ∧ encodeNat (selectF f) = wordXNN 0xF f.x f.nn := by
  unfold selectF
  split_ifs <;> simp_all [Instr.wellFormed, selectorsF, encodeNat]

/-- What is selected is well-formed, and its word has one of the three formats, filled with the fields. -/
theorem select_spec : (select f).wellFormed = true ∧
    (encodeNat (select f) = wordNNN f.opcode.val f.nnn ∨
     encodeNat (select f) = wordXNN f.opcode.val f.x f.nn ∨
     encodeNat (select f) = wordXYN f.opcode.val f.x f.y f.n) := by
  obtain ⟨op, x, y, n, nn, nnn⟩ := f
  match op with
  | 0x0 => exact ⟨(select0_spec _).1, .inl (select0_spec _).2⟩
  | 0x8 => exact ⟨(select8_spec _).1, .inr (.inr (select8_spec _).2)⟩
  | 0xE => exact ⟨(selectE_spec _).1, .inr (.inl (selectE_spec _).2)⟩
  | 0xF => exact ⟨(selectF_spec _).1, .inr (.inl (selectF_spec _).2)⟩
  | 0x1 | 0x2 | 0x3 | 0x4 | 0x5 | 0x6 | 0x7 | 0x9 | 0xA | 0xB | 0xC | 0xD => simp [select, Instr.wellFormed, encodeNat]
  | ⟨_ + 16, big⟩ => omega

/-! ### The three formats, filled with the fields of a word, are that word (R61) -/

theorem wordNNN_fieldsOf (w : Word) : wordNNN (fieldsOf w).opcode.val (fieldsOf w).nnn = w.toNat := by
  rw [wordNNN, fieldsOf_opcode_val, fieldsOf_nnn_toNat]
  omega

theorem wordXNN_fieldsOf (w : Word) : wordXNN (fieldsOf w).opcode.val (fieldsOf w).x (fieldsOf w).nn = w.toNat := by
  rw [wordXNN, fieldsOf_opcode_val, fieldsOf_x_val, fieldsOf_nn_toNat]
  omega

theorem wordXYN_fieldsOf (w : Word) :
    wordXYN (fieldsOf w).opcode.val (fieldsOf w).x (fieldsOf w).y (fieldsOf w).n = w.toNat := by
  rw [wordXYN, fieldsOf_opcode_val, fieldsOf_x_val, fieldsOf_y_val, fieldsOf_n_val]
  omega

theorem wellFormed_decodeWord (w : Word) : (decodeWord w).wellFormed = true := (select_spec (fieldsOf w)).1

theorem encode_decodeWord (w : Word) : encode (decodeWord w) = w := by
  have number : encodeNat (decodeWord w) = w.toNat := by
    obtain ⟨-, nnn | xnn | xyn⟩ := select_spec (fieldsOf w)
    · exact nnn.trans (wordNNN_fieldsOf w)
    · exact xnn.trans (wordXNN_fieldsOf w)
    · exact xyn.trans (wordXYN_fieldsOf w)
  rw [encode, number, BitVec.ofNat_toNat, BitVec.setWidth_eq]

end Sys2Proof
end

section
open Sys2Proof Sys2Proof.Machine

/-- Settles O2, by the decoding of a word of each format. -/
theorem decodeOfEncode : Obligations.DecodeOfEncode := fun _ rest wf =>
  ⟨decodeWord_encode wf, decodeBytes_encodeBytes wf rest, decodes_encodeNat wf⟩

/-- Settles O3: what is selected holds every field of the word. -/
theorem encodeOfDecode : Obligations.EncodeOfDecode := fun w => ⟨wellFormed_decodeWord w, encode_decodeWord w⟩

/-- Settles O1: R61's formulas are the model's, and the rest is arithmetic on them. -/
theorem fieldsRebuildTheWord : Obligations.FieldsRebuildTheWord := by
  constructor
  · intro w
    rw [fieldsOf_opcode_val, fieldsOf_x_val, fieldsOf_y_val, fieldsOf_n_val, fieldsOf_nn_toNat, fieldsOf_nnn_toNat]
    omega
  · intro b0 b1
    have lo := b1.isLt
    rw [← BitVec.toNat_inj, fieldsOf_opcode_val, fieldsOf_x_val, fieldsOf_y_val, fieldsOf_n_val, fieldsOf_nn_toNat,
      fieldsOf_nnn_toNat, toNat_wordOfBytes]
    omega

end

section
/-! Matching a row of R66's table, said in terms of the fields, and the words that match none (R61, R66, R67). -/

namespace Sys2Proof

variable (w : Word) {p : Word}

/-! ### The four masks: each keeps the opcode and the field it selects by, none, n, nn or nnn -/

/-- A mask that keeps the opcode and the remainder by k compares just these two with a pattern inside it. -/
theorem and_mask_eq_iff {m : Word} {k : Nat}
    (keeps : ∀ v : Word, (v &&& m).toNat = v.toNat / 4096 * 4096 + v.toNat % k)
    (pos : 0 < k) (le : k ≤ 4096) (fixed : p &&& m = p) :
    w &&& m = p ↔ w.toNat / 4096 = p.toNat / 4096 ∧ w.toNat % k = p.toNat % k := by
  have pattern := keeps p
  have small : w.toNat % k < 4096 := (Nat.mod_lt _ pos).trans_le le
  have small' : p.toNat % k < 4096 := (Nat.mod_lt _ pos).trans_le le
  rw [fixed] at pattern
  rw [← BitVec.toNat_inj, keeps]
  omega

theorem and_maskF000_eq_iff (fixed : p &&& 0xF000#16 = p) :
    w &&& 0xF000#16 = p ↔ (fieldsOf w).opcode.val = p.toNat / 4096 := by
  have keeps (v : Word) : (v &&& 0xF000#16).toNat = v.toNat / 4096 * 4096 + v.toNat % 1 := by
    rw [and_maskF000, Nat.mod_one, Nat.add_zero]
  rw [fieldsOf_opcode_val, and_mask_eq_iff w keeps (by decide) (by decide) fixed, Nat.mod_one, Nat.mod_one]
  exact and_iff_left rfl

theorem and_maskF00F_eq_iff (fixed : p &&& 0xF00F#16 = p) :
    w &&& 0xF00F#16 = p ↔ (fieldsOf w).opcode.val = p.toNat / 4096 ∧ (fieldsOf w).n.val = p.toNat % 16 := by
  rw [fieldsOf_opcode_val]
  exact and_mask_eq_iff w and_maskF00F (by decide) (by decide) fixed

theorem and_maskF0FF_eq_iff (fixed : p &&& 0xF0FF#16 = p) :
    w &&& 0xF0FF#16 = p ↔ (fieldsOf w).opcode.val = p.toNat / 4096 ∧ (fieldsOf w).nn.toNat = p.toNat % 256 := by
  rw [fieldsOf_opcode_val]
  exact and_mask_eq_iff w and_maskF0FF (by decide) (by decide) fixed

theorem and_maskFFFF_eq_iff :
    w &&& 0xFFFF#16 = p ↔ (fieldsOf w).opcode.val = p.toNat / 4096 ∧ (fieldsOf w).nnn.toNat = p.toNat % 4096 := by
  have keeps (v : Word) : (v &&& 0xFFFF#16).toNat = v.toNat / 4096 * 4096 + v.toNat % 4096 := by
    rw [and_mask_low v 16 65535 rfl (by decide)]
    omega
  rw [fieldsOf_opcode_val]
  exact and_mask_eq_iff w keeps (by decide) (by decide) BitVec.and_allOnes

/-! ### Rows -/

variable {w}

/-- Row by row, a word that matches decodes to that row's instruction: the fields its mask keeps are those the selection
looks at. -/
theorem mnemonic_of_match {r : Row} (row : r ∈ opcodeRows) (hit : w &&& r.mask = r.pattern) :
    (decodeWord w).mnemonic = r.mnemonic := by
  simp only [opcodeRows, List.cons_append, List.nil_append] at row
  fin_cases row
  all_goals
    simp only [and_maskF000_eq_iff, and_maskF00F_eq_iff, and_maskF0FF_eq_iff, and_maskFFFF_eq_iff, BitVec.ofNat_eq_ofNat,
      BitVec.reduceAnd, BitVec.reduceToNat, Nat.reduceDiv, Nat.reduceMod] at hit
    simp [decodeWord, select, select0, select8, selectE, selectF, hit, Instr.mnemonic, ← BitVec.toNat_inj]

theorem rows_mnemonic_inj : ∀ r ∈ opcodeRows, ∀ r' ∈ opcodeRows, r.mnemonic = r'.mnemonic → r = r' := by decide

/-- The keys of the four fallback rows (R67). -/
def nopMnemonics : List String := ["NOP_0", "NOP_8", "NOP_E", "NOP_F"]

theorem rows_mnemonic_not_nop : ∀ r ∈ opcodeRows, r.mnemonic ∉ nopMnemonics := by decide

/-- Opcode by opcode, the words that match no row (R67). -/
theorem unrecognised_iff (w : Word) : Unrecognised w ↔
    ((fieldsOf w).opcode = 0x0 ∧ (fieldsOf w).nnn ≠ 0x0E0 ∧ (fieldsOf w).nnn ≠ 0x0EE) ∨
    ((fieldsOf w).opcode = 0x8 ∧ (fieldsOf w).n ∉ selectors8) ∨
    ((fieldsOf w).opcode = 0xE ∧ (fieldsOf w).nn ∉ selectorsE) ∨
    ((fieldsOf w).opcode = 0xF ∧ (fieldsOf w).nn ∉ selectorsF) := by
  simp only [Unrecognised, opcodeRows, List.cons_append, List.nil_append, List.forall_mem_cons, ne_eq,
    and_maskF000_eq_iff, and_maskF00F_eq_iff, and_maskF0FF_eq_iff, and_maskFFFF_eq_iff, BitVec.ofNat_eq_ofNat,
    BitVec.reduceAnd, BitVec.reduceToNat, Nat.reduceDiv, Nat.reduceMod]
  generalize fieldsOf w = f
  obtain ⟨op, x, y, n, nn, nnn⟩ := f
  fin_cases op
  all_goals
    simp [Fin.ext_iff, ← BitVec.toNat_inj, selectors8, selectorsE, selectorsF, -Fin.val_eq_zero_iff]

/-- The selectors of opcode 0x8 that R66 leaves free (R67). -/
theorem not_mem_selectors8 :
    ∀ n : Nibble, n ∉ selectors8 ↔ n ∈ ([8, 9, 0xA, 0xB, 0xC, 0xD, 0xF] : List Nibble) := by decide

/-- A word that matches no row decodes to a fallback row, since no assigned selector is left for it (R67). -/
theorem mnemonic_of_unrecognised (h : Unrecognised w) : (decodeWord w).mnemonic ∈ nopMnemonics := by
  obtain ⟨opcode, free⟩ | ⟨opcode, free⟩ | ⟨opcode, free⟩ | ⟨opcode, free⟩ := (unrecognised_iff w).1 h
  · simp_all [decodeWord, select, select0, Instr.mnemonic, nopMnemonics]
  · simp_all [decodeWord, select, select8, selectors8, Fin.ext_iff, -Fin.val_eq_zero_iff, Instr.mnemonic, nopMnemonics]
  · simp_all [decodeWord, select, selectE, selectorsE, Instr.mnemonic, nopMnemonics]
  · simp_all [decodeWord, select, selectF, selectorsF, Instr.mnemonic, nopMnemonics]

/-- The row an instruction is named after is the one its word matches: some row does, or the word would be a no-op. -/
theorem match_of_mnemonic {r : Row} (row : r ∈ opcodeRows) (name : (decodeWord w).mnemonic = r.mnemonic) :
    w &&& r.mask = r.pattern := by
  have recognised : ¬ Unrecognised w := fun un => rows_mnemonic_not_nop r row (name ▸ mnemonic_of_unrecognised un)
  obtain ⟨r', row', hit⟩ : ∃ r' ∈ opcodeRows, w &&& r'.mask = r'.pattern := by simpa [Unrecognised] using recognised
  have same : r = r' := rows_mnemonic_inj r row r' row' (name.symm.trans (mnemonic_of_match row' hit))
  exact same ▸ hit

end Sys2Proof
end

section
open Sys2Proof Sys2Proof.Machine

/-- Settles O4: a match fixes the fields that select the row's instruction, and the rows' keys are distinct. -/
theorem decodeFollowsOpcodeTable : Obligations.DecodeFollowsOpcodeTable :=
  ⟨fun _ _ row => ⟨mnemonic_of_match row, match_of_mnemonic row⟩, fun _ r r' row row' hit hit' =>
    rows_mnemonic_inj r row r' row' ((mnemonic_of_match row hit).symm.trans (mnemonic_of_match row' hit'))⟩

/-- Settles O5: opcode by opcode, no row is left for the selectors that R66 does not assign. -/
theorem unrecognisedWordsAreExactly : Obligations.UnrecognisedWordsAreExactly := fun w => by
  rw [unrecognised_iff, not_mem_selectors8]
  rfl

end

section
/-! What a step answers, and where `withFetchWord` lays the word (R41, R64, R160; log 26). -/

namespace Sys2Proof.Machine

theorem exec_answers_next (i : Instr) (s : State) : ∃ t, exec i s = .next t := by
  obtain ⟨u, answer, -⟩ := exec_eq_guarded i s
  exact ⟨_, answer⟩

/-- A step at a PC that cannot be fetched from raises the fetch fault (R46, R164). -/
theorem step_of_high_pc {s : State} (clear : s.faulted = false) (high : 0xFFE < s.pc.toNat) :
    step s = .next (s.raise (.fetchOutOfRange s.pc)) := by
  have out : ¬ s.pc.toNat + 1 < Config.heapSize := by
    simp only [Config.heapSize]
    omega
  simp [step, cycle, clear, fetchExecute, fetchFault, out]

theorem step_answers_next (s : State) : ∃ t, step s = .next t := by
  cases latch : s.faulted
  case true => exact ⟨s, if_pos latch⟩
  case false =>
    obtain fetchable | high := le_or_gt s.pc.toNat 0xFFE
    · rw [step_eq_exec latch fetchable]
      exact exec_answers_next _ s
    · exact ⟨_, step_of_high_pc latch high⟩

/-- `withFetchWord` clears the latch and writes the word's two bytes at a PC that can be fetched from. -/
theorem withFetchWord_spec (s : State) (w : Nat) (small : w < 65536) : ∃ pc : Word, pc.toNat ≤ 0xFFE ∧
    s.withFetchWord 16 w = ({ s with faulted := false }.setPc pc).memWrite pc.toNat
      [BitVec.ofNat 8 (w / 256), BitVec.ofNat 8 w] := by
  have whole : w % 2 ^ 16 = w := Nat.mod_eq_of_lt small
  unfold State.withFetchWord State.placeWord fetchFault
  rw [whole]
  by_cases room : s.pc.toNat + 1 < Config.heapSize
  · refine ⟨s.pc, ?_, by rw [if_pos room]⟩
    simp only [Config.heapSize] at room
    omega
  · exact ⟨BitVec.ofNat 16 Config.loadBase, by decide, by rw [if_neg room]⟩

/-- The state with the word placed is ready to run it. -/
theorem fetchWord_withFetchWord {s : State} {w : Nat} (inv : HeapInv s) (small : w < 65536) :
    NoFault (s.withFetchWord 16 w) ∧ (s.withFetchWord 16 w).pc.toNat ≤ 0xFFE ∧
      (s.withFetchWord 16 w).fetchWord = BitVec.ofNat 16 w := by
  obtain ⟨pc, fetchable, placed⟩ := withFetchWord_spec s w small
  rw [placed]
  refine ⟨rfl, fetchable, ?_⟩
  have bytes := Memory.read_writeBytes inv (a := pc.toNat) (bs := [BitVec.ofNat 8 (w / 256), BitVec.ofNat 8 w])
    (by simp only [Config.heapSize, List.length_cons, List.length_nil]; omega)
  rw [← wordOfBytes_ofNat small]
  simp [State.fetchWord, State.memWrite, State.memRead, bytes]

end Sys2Proof.Machine
end

section
open Sys2Proof Sys2Proof.Machine

/-- Settles O13: the step fetches the two bytes laid at PC, and they make up the word. -/
theorem placedWordIsRunNext : Obligations.PlacedWordIsRunNext := by
  intro s w i inv small decodes
  obtain ⟨clear, fetchable, fetched⟩ := fetchWord_withFetchWord inv small
  have decoded : decodeWord (BitVec.ofNat 16 w) = i := Option.some.inj ((decodeTableWord_eq small).symm.trans decodes)
  rw [step_eq_exec clear fetchable, fetched, decoded]

/-- Settles O6, by running the decoder on each word. -/
theorem sampleWordsDecode : Obligations.SampleWordsDecode := by
  unfold Obligations.SampleWordsDecode Decodes
  decide

/-- Settles O7: the word of the two bytes is the one the step fetches. -/
theorem stepRunsDecodedInstruction : Obligations.StepRunsDecodedInstruction := by
  intro s i clear fetchable decodes
  have decoded : decodeWord s.fetchWord = i := (Prod.mk.inj (Except.ok.inj decodes)).1
  rw [step_eq_exec clear fetchable, decoded]

/-- Settles O9: an instruction answers its fault or its effect, and a step the state itself, the fetch fault or what an
instruction answers. -/
theorem everyStepAnswersNext : Obligations.EveryStepAnswersNext := ⟨step_answers_next, exec_answers_next⟩

end

section
/-! What a control transfer makes of PC and of the call stack, and the words of 40_flow.md (R62, R80 to R88). -/

namespace Sys2Proof

open Sys2Proof.Machine

/-! ### Words -/

/-- The word of a well-formed instruction decodes to it, in whatever form the word is written. -/
theorem decodes_of_encodeNat_eq {w : Nat} {i : Instr} (wf : i.wellFormed = true) (word : encodeNat i = w) : Decodes w i :=
  word ▸ decodes_encodeNat wf

theorem wordXNN_eq (opcode : Nat) (x : Nibble) (nn : Byte) :
    wordXNN opcode x nn = opcode * 4096 + 0x100 * x.val + nn.toNat := by
  rw [wordXNN, Nat.mul_comm 0x100]

theorem wordXYN_eq (opcode : Nat) (x y n : Nibble) :
    wordXYN opcode x y n = opcode * 4096 + 0x100 * x.val + 0x10 * y.val + n.val := by
  rw [wordXYN, Nat.mul_comm 0x100, Nat.mul_comm 0x10]

/-! ### Targets of a jump -/

theorem toNat_immAddr (nnn : Addr12) : (immAddr nnn).toNat = nnn.toNat :=
  BitVec.toNat_setWidth_of_le (by decide)

/-- nnn and a byte add up without a carry out of 16 bits, so the target of BNNN is their plain sum (R88). -/
theorem toNat_immAddr_add (nnn : Addr12) (b : Byte) : (immAddr nnn + b.setWidth 16).toNat = nnn.toNat + b.toNat := by
  have byte : (b.setWidth 16).toNat = b.toNat := BitVec.toNat_setWidth_of_le (by decide)
  rw [BitVec.toNat_add, toNat_immAddr, byte]
  omega

variable {i : Instr} {s : State}

theorem jumpOffset_of_jump (on : s.quirk.jump = true) {x : Nibble} {nnn : Addr12} (field : x.val = nnn.toNat / 256) :
    s.jumpOffset nnn = s.readV x := by
  have top : regOfNnn nnn = x := Fin.ext ((Nat.mod_eq_of_lt (field ▸ x.isLt)).trans field.symm)
  rw [State.jumpOffset, if_pos on, top]

theorem jumpOffset_of_not_jump (off : s.quirk.jump = false) (nnn : Addr12) : s.jumpOffset nnn = s.readV 0 := by
  rw [State.jumpOffset, off]
  rfl

/-! ### The no-op class -/

/-- The fallback rows have one meaning: the common advance (R80). -/
theorem exec_of_mnemonic_nop (nop : i.mnemonic ∈ nopMnemonics) (s : State) : exec i s = .next s.advance := by
  cases i
  case nop0 | nop8 | nopE | nopF => rfl
  all_goals simp [Instr.mnemonic, nopMnemonics] at nop

theorem only_advances (meaning : exec i s = .next s.advance) :
    ∃ t, exec i s = .next t ∧ t.pc = s.pc + 2 ∧ SameExcept [.pc] s t :=
  ⟨_, meaning, rfl, SameExcept.of_setPc s _⟩

/-! ### Skips -/

/-- A skip on p, PC's common advance included: 2 more when p holds (R84 to R87). -/
theorem skips_if {p : Prop} [Decidable p] (meaning : exec i s = .next (s.advance.skipIf (decide p))) :
    ∃ t, exec i s = .next t ∧ SameExcept [.pc] s t ∧ t.pc = if p then s.pc + 4 else s.pc + 2 := by
  rw [State.skipIf_eq] at meaning
  refine ⟨_, meaning, SameExcept.of_setPc s _, ?_⟩
  simp only [State.advance_eq, State.setPc_pc, decide_eq_true_eq, add_two_two]

theorem skips_unless {p : Prop} [Decidable p] (meaning : exec i s = .next (s.advance.skipIf (decide ¬p))) :
    ∃ t, exec i s = .next t ∧ SameExcept [.pc] s t ∧ t.pc = if p then s.pc + 2 else s.pc + 4 := by
  obtain ⟨t, answer, frame, pc⟩ := skips_if meaning
  exact ⟨t, answer, frame, pc.trans (ite_not p _ _)⟩

/-! ### The call stack -/

/-- RET on an empty stack (R81). -/
theorem exec_ret_of_empty (empty : s.sp.val = 0) : exec .ret s = .next (s.raise .stackUnderflow) := by
  have raised : popFault s.sp = some .stackUnderflow := if_pos empty
  exact congrArg (guarded · s _) raised

/-- CALL on a full stack (R83). -/
theorem exec_call_of_full (nnn : Addr12) (full : s.sp.val = 16) :
    exec (.call nnn) s = .next (s.raise .stackOverflow) := by
  have raised : pushFault s.sp = some .stackOverflow := if_pos full
  exact congrArg (guarded · s _) raised

/-- CALL and RET alike advance PC, replace the call stack and set PC (R81, R83). -/
theorem sameExcept_transfer (s : State) (advanced target : Word) (sp : Fin 17) (stack : Vector Word 16) :
    SameExcept [.pc, .callStack] s (((s.setPc advanced).setCallStack sp stack).setPc target) := by
  simp [sameExcept_iff, Part.same]

end Sys2Proof
end

section
open Sys2Proof Sys2Proof.Machine

/-- Settles O14: the fallback rows have one meaning, and a word that matches no row decodes to one of them. -/
theorem noOpsOnlyAdvance : Obligations.NoOpsOnlyAdvance :=
  ⟨fun _ _ => only_advances rfl, fun _ _ _ _ => only_advances rfl, fun _ _ _ => only_advances rfl,
    fun _ _ _ => only_advances rfl,
    fun s _ unrecognised => only_advances (exec_of_mnemonic_nop (mnemonic_of_unrecognised unrecognised) s)⟩

/-- Settles O15: an empty stack raises the underflow, any other is popped on the advanced state. -/
theorem retPopsOrUnderflows : Obligations.RetPopsOrUnderflows := by
  refine ⟨decodes_encodeNat (i := .ret) rfl, fun s => ⟨fun empty => ?_, fun top used => ?_⟩⟩
  · exact ⟨_, exec_ret_of_empty empty, latched_raise s .stackUnderflow⟩
  · have nonempty : 0 < s.sp.val := by omega
    obtain ⟨sp, stack, pc⟩ := popPc_spec s.advance nonempty
    refine ⟨_, exec_ret_of_used nonempty, ?_, pc top used.symm, fun k => ?_, sameExcept_transfer s _ _ _ _⟩
    · rw [sp]
      exact Nat.sub_eq_of_eq_add used
    · rw [stack]
      simp [used, Fin.ext_iff]

/-- Settles O16: the target is nnn zero-extended. -/
theorem jumpSetsPc : Obligations.JumpSetsPc := fun nnn =>
  ⟨decodes_encodeNat (i := .jp nnn) rfl, fun s => ⟨_, rfl, toNat_immAddr nnn, SameExcept.of_setPc s _⟩⟩

/-- Settles O17: a full stack raises the overflow, any other is pushed on the advanced state, whose PC is the return address. -/
theorem callPushesOrOverflows : Obligations.CallPushesOrOverflows := by
  refine fun nnn => ⟨decodes_encodeNat (i := .call nnn) rfl, fun s => ⟨fun full => ?_, fun top free => ?_⟩⟩
  · exact ⟨_, exec_call_of_full nnn full, latched_raise s .stackOverflow⟩
  · have room : s.sp.val < 16 := free ▸ top.isLt
    obtain ⟨sp, stack⟩ := pushPc_spec s.advance room
    refine ⟨_, exec_call_of_room nnn room, ?_, toNat_immAddr nnn, fun k => ?_, sameExcept_transfer s _ _ _ _⟩
    · exact sp.trans (congrArg (· + 1) free)
    · rw [State.setPc_stack, stack]
      simp [free, Fin.ext_iff]

/-- Settles O18: two skips on a condition and two on its negation. -/
theorem skipsAddTwoMore : Obligations.SkipsAddTwoMore := by
  intro x y n nn
  refine ⟨?_, ?_, ?_, ?_, fun s => ⟨skips_if rfl, skips_unless rfl, skips_if rfl, skips_unless rfl⟩⟩
  · exact decodes_of_encodeNat_eq rfl (wordXNN_eq 0x3 x nn)
  · exact decodes_of_encodeNat_eq rfl (wordXNN_eq 0x4 x nn)
  · exact decodes_of_encodeNat_eq rfl (wordXYN_eq 0x5 x y n)
  · exact decodes_of_encodeNat_eq rfl (wordXYN_eq 0x9 x y n)

/-- Settles O19: the selector chooses the register, and nnn and its byte add up without a carry. -/
theorem jumpWithOffset : Obligations.JumpWithOffset := by
  refine fun nnn => ⟨decodes_encodeNat (i := .jpOff nnn) rfl, fun s => ⟨_, rfl, SameExcept.of_setPc s _, ?_, ?_⟩⟩
  · intro on x field
    rw [← jumpOffset_of_jump on field]
    exact toNat_immAddr_add nnn (s.jumpOffset nnn)
  · intro off
    rw [← jumpOffset_of_not_jump off nnn]
    exact toNat_immAddr_add nnn (s.jumpOffset nnn)

end

section
/-! What an arithmetic or logical instruction answers: a result, or a result and then a flag, with the frame; and the words of
41_alu.md (R62, R100 to R112). -/

namespace Sys2Proof

open Sys2Proof.Machine

/-! ### Words -/

/-- The selector n joins the opcode in the pattern of a row of format F_XY (R66). -/
theorem wordXYN_eq_pattern_add (opcode : Nat) (x y n : Nibble) :
    wordXYN opcode x y n = opcode * 4096 + n.val + 0x100 * x.val + 0x10 * y.val := by
  rw [wordXYN_eq]
  omega

/-! ### Results as numbers -/

theorem toNat_sub_byte (a b : Byte) : (a - b).toNat = (a.toNat + 256 - b.toNat) % 256 := by
  rw [BitVec.toNat_sub]
  omega

theorem toNat_shiftRight_one (a : Byte) : (a >>> 1).toNat = a.toNat / 2 := by
  rw [BitVec.toNat_ushiftRight, Nat.shiftRight_eq_div_pow]

theorem toNat_shiftLeft_one (a : Byte) : (a <<< 1).toNat = a.toNat * 2 % 256 := by
  rw [BitVec.toNat_shiftLeft, Nat.shiftLeft_eq]

/-! ### Answers -/

variable {i : Instr} {s : State} {x : Nibble} {b : Byte} {c : Bool}

theorem sameExcept_setPc_setV (s : State) (a : Word) (w : Vector Byte 16) :
    SameExcept [.pc, .regs] s ((s.setPc a).setV w) := by
  simp [sameExcept_iff, Part.same]

/-- A result without a flag (R100 to R105). -/
theorem writes_result (meaning : exec i s = .next (s.advance.writeV x b)) :
    ∃ t, exec i s = .next t ∧ t.readV x = b ∧ t.pc = s.pc + 2 ∧
      RegsSameExcept [x] s t ∧ SameExcept [.pc, .regs] s t :=
  ⟨_, meaning, (readV_writeV ..).trans (if_pos rfl), rfl, RegsSameExcept_writeV s x b, sameExcept_setPc_setV s _ _⟩

/-- A result without a flag, bit by bit (R103 to R105). -/
theorem writes_bits {f : Nat → Bool} (meaning : exec i s = .next (s.advance.writeV x b))
    (bits : ∀ k < 8, b.getLsbD k = f k) :
    ∃ t, exec i s = .next t ∧ t.pc = s.pc + 2 ∧ (∀ k < 8, (t.readV x).getLsbD k = f k) ∧
      RegsSameExcept [x] s t ∧ SameExcept [.pc, .regs] s t := by
  obtain ⟨t, answer, rfl, pc, regs, frame⟩ := writes_result meaning
  exact ⟨t, answer, pc, bits, regs, frame⟩

/-- A result n and then a flag, which wins in VF (R112). -/
theorem writes_result_and_flag {n : Nat} {flag : Byte}
    (meaning : exec i s = .next (s.advance.writeVFlag x b c)) (result : b.toNat = n) (flagged : flagByte c = flag) :
    ∃ t, exec i s = .next t ∧ t.pc = s.pc + 2 ∧ (x ≠ 0xF → (t.readV x).toNat = n) ∧ t.readV 0xF = flag ∧
      RegsSameExcept [x, 0xF] s t ∧ SameExcept [.pc, .regs] s t := by
  refine ⟨_, meaning, rfl, fun notVf => ?_, ?_, regsSameExcept_writeVFlag s.advance x b c, sameExcept_setPc_setV s _ _⟩
  · rw [readV_writeVFlag, if_neg notVf, if_pos rfl, result]
  · rw [readV_writeVFlag, if_pos rfl, flagged]

/-- A result n and then a flag whose number is m (R108, R110). -/
theorem writes_result_and_bit {n m : Nat}
    (meaning : exec i s = .next (s.advance.writeVFlag x b c)) (result : b.toNat = n) (bit : (flagByte c).toNat = m) :
    ∃ t, exec i s = .next t ∧ t.pc = s.pc + 2 ∧ (x ≠ 0xF → (t.readV x).toNat = n) ∧ (t.readV 0xF).toNat = m ∧
      RegsSameExcept [x, 0xF] s t ∧ SameExcept [.pc, .regs] s t := by
  obtain ⟨t, answer, pc, value, flag, regs, frame⟩ := writes_result_and_flag meaning result rfl
  exact ⟨t, answer, pc, value, (congrArg BitVec.toNat flag).trans bit, regs, frame⟩

end Sys2Proof
end

section
open Sys2Proof Sys2Proof.Machine

/-- Settles O20: both write one result without a flag, and the sum of two bytes is taken modulo 256. -/
theorem immediateLoadAndAdd : Obligations.ImmediateLoadAndAdd := by
  refine fun x nn => ⟨?_, ?_, fun s => ⟨writes_result rfl, ?_⟩⟩
  · exact decodes_of_encodeNat_eq rfl (wordXNN_eq 0x6 x nn)
  · exact decodes_of_encodeNat_eq rfl (wordXNN_eq 0x7 x nn)
  · obtain ⟨t, answer, sum, rest⟩ := writes_result (i := .addImm x nn) (s := s) rfl
    exact ⟨t, answer, (congrArg BitVec.toNat sum).trans (BitVec.toNat_add ..), rest⟩

/-- Settles O21: each writes one result without a flag, the logical ones bit by bit. -/
theorem copyAndLogicWriteOneRegister : Obligations.CopyAndLogicWriteOneRegister := by
  refine fun x y => ⟨?_, ?_, ?_, ?_, fun s => ⟨writes_result rfl, writes_bits rfl ?_, writes_bits rfl ?_, writes_bits rfl ?_⟩⟩
  · exact decodes_of_encodeNat_eq rfl (wordXYN_eq_pattern_add 0x8 x y 0x0)
  · exact decodes_of_encodeNat_eq rfl (wordXYN_eq_pattern_add 0x8 x y 0x1)
  · exact decodes_of_encodeNat_eq rfl (wordXYN_eq_pattern_add 0x8 x y 0x2)
  · exact decodes_of_encodeNat_eq rfl (wordXYN_eq_pattern_add 0x8 x y 0x3)
  · exact fun _ _ => BitVec.getLsbD_or
  · exact fun _ _ => BitVec.getLsbD_and
  · exact fun _ _ => BitVec.getLsbD_xor

/-- Settles O22: the flag is written after the sum, so it wins in VF. -/
theorem addWritesSumThenCarry : Obligations.AddWritesSumThenCarry := fun x y =>
  ⟨decodes_of_encodeNat_eq rfl (wordXYN_eq_pattern_add 0x8 x y 0x4),
    fun _ => writes_result_and_flag rfl (BitVec.toNat_add ..) (flagByte_carryOut _ _)⟩

/-- Settles O23: the two differ in which operand is the minuend. -/
theorem subtractsWriteDifferenceThenNotBorrow : Obligations.SubtractsWriteDifferenceThenNotBorrow := by
  refine fun x y => ⟨?_, ?_, fun s => ⟨?_, ?_⟩⟩
  · exact decodes_of_encodeNat_eq rfl (wordXYN_eq_pattern_add 0x8 x y 0x5)
  · exact decodes_of_encodeNat_eq rfl (wordXYN_eq_pattern_add 0x8 x y 0x7)
  · exact writes_result_and_flag rfl (toNat_sub_byte _ _) (flagByte_notBorrow _ _)
  · exact writes_result_and_flag rfl (toNat_sub_byte _ _) (flagByte_notBorrow _ _)

/-- Settles O24: b is the operand the selector chooses, and the bit shifted out is a digit of b. -/
theorem shiftsWriteResultThenBitOut : Obligations.ShiftsWriteResultThenBitOut := by
  refine fun x y => ⟨?_, ?_, fun s b operand => ?_⟩
  · exact decodes_of_encodeNat_eq rfl (wordXYN_eq_pattern_add 0x8 x y 0x6)
  · exact decodes_of_encodeNat_eq rfl (wordXYN_eq_pattern_add 0x8 x y 0xE)
  · obtain rfl : b = s.shiftOperand x y := operand
    exact ⟨writes_result_and_bit rfl (toNat_shiftRight_one _) (toNat_flag_lowBitOut _),
      writes_result_and_bit rfl (toNat_shiftLeft_one _) (toNat_flag_highBitOut _)⟩

/-- Settles O25: the byte is masked as it is, whatever it is, and only the draw counter moves beside PC and V[x]. -/
theorem randomByteUnderMask : Obligations.RandomByteUnderMask := by
  refine fun x nn => ⟨decodes_of_encodeNat_eq rfl (wordXNN_eq 0xC x nn), fun s => ?_⟩
  refine ⟨_, rfl, rfl, fun k _ => ?_, rfl, exec_regsSameExcept_destRegs (i := .rnd x nn) rfl,
    exec_sameExcept_parts (i := .rnd x nn) rfl⟩
  rw [State.maskRandom, readV_writeV, if_pos rfl]
  exact BitVec.getLsbD_and

end

section
/-! What an instruction that goes through I answers: its new I, its store, its load, or the fault of its highest address; and the
words of 42_index_memory.md (R46, R62, R120 to R125). -/

namespace Sys2Proof

open Sys2Proof.Machine

/-! ### Words -/

/-- The selector nn joins the opcode in the pattern of a row of format F_X (R66). -/
theorem wordXNN_eq_pattern_add (opcode : Nat) (x : Nibble) (nn : Byte) :
    wordXNN opcode x nn = opcode * 4096 + nn.toNat + 0x100 * x.val := by
  rw [wordXNN_eq]
  omega

/-! ### The value of I -/

theorem toNat_add_setWidth (a : Word) (b : Byte) : (a + b.setWidth 16).toNat = (a.toNat + b.toNat) % 65536 := by
  rw [BitVec.toNat_add, BitVec.toNat_setWidth_of_le (by decide)]

/-- The last glyph address is 0x50 + 5 * 255, so no carry leaves 16 bits (R122). -/
theorem toNat_glyphAddr (b : Byte) : (glyphAddr b).toNat = 0x50 + 5 * b.toNat := by
  rw [glyphAddr, BitVec.toNat_ofNat, Config.fontBase]
  omega

theorem toNat_i_bumpIndex (s : State) (x : Nibble) : (s.bumpIndex x).i.toNat =
    if s.quirk.tempIndex = true then s.i.toNat else (s.i.toNat + x.val + 1) % 65536 := by
  rw [State.bumpIndex]
  split
  · rfl
  · rw [State.setI_i, BitVec.toNat_add, BitVec.toNat_ofNat, Nat.add_mod_mod, Nat.add_assoc]

theorem pc_bumpIndex (s : State) (x : Nibble) : (s.bumpIndex x).pc = s.pc := by
  rw [State.bumpIndex_eq, State.setI_pc]

variable {i : Instr} {s t : State}

/-- A write of I without a flag (R120 to R122). -/
theorem writes_index {a : Word} {n : Nat} (meaning : exec i s = .next (s.advance.setI a)) (value : a.toNat = n) :
    ∃ t, exec i s = .next t ∧ t.i.toNat = n ∧ t.pc = s.pc + 2 ∧ SameExcept [.pc, .index] s t := by
  refine ⟨_, meaning, value, rfl, ?_⟩
  simp [sameExcept_iff, Part.same]

/-! ### Faults -/

theorem indexFault_of_fits {a : Word} {k : Nat} (fits : a.toNat + k ≤ 0xFFF) : indexFault a (k + 1) = none :=
  (indexFault_spec a (k + 1)).1.2 (.inr (Nat.succ_le_succ fits))

theorem indexFault_of_exceeds {a : Word} {k : Nat} (high : 0xFFF < a.toNat + k) :
    indexFault a (k + 1) = some (.heapOutOfRange (a.toNat + k)) :=
  if_neg fun h => h.elim (Nat.succ_ne_zero k) (Nat.not_le_of_lt (Nat.succ_lt_succ high))

/-- An instruction that raises a fault records it and changes nothing else (R161). -/
theorem latches_of_fault {f : Fault} (raised : i.fault s = some f) :
    ∃ t, exec i s = .next t ∧ Latched f.code f.info s t := by
  obtain ⟨u, answer, -⟩ := exec_eq_guarded i s
  rw [answer, raised]
  exact ⟨_, rfl, latched_raise s f⟩

/-- An instruction that raises no fault answers its effect. -/
theorem exec_of_unfaulted (meaning : exec i s = guarded (i.fault s) s t) (clear : i.fault s = none) :
    exec i s = .next t := by
  rw [meaning, clear]
  rfl

/-- An instruction that raises no fault has completed (R161). -/
theorem completes_of_unfaulted (run : exec i s = .next t) (clear : i.fault s = none) : i.Completes s t := by
  obtain ⟨f, raised, -⟩ | ⟨-, completes⟩ := exec_cases run
  · cases clear.symm.trans raised
  · exact completes

/-- The frame of an instruction that raises no fault: it leaves the latch alone. -/
theorem sameExcept_of_unfaulted {ps : List Part} (run : exec i s = .next t) (clear : i.fault s = none)
    (parts : i.parts ⊆ .latch :: ps) : SameExcept ps s t := by
  obtain ⟨frame, latch, -⟩ := completes_of_unfaulted run clear
  intro p untouched
  by_cases isLatch : p = .latch
  · exact isLatch ▸ latch
  · exact frame p fun mem => (List.mem_cons.1 (parts mem)).elim isLatch untouched

/-! ### Stores -/

/-- What an instruction that raises no fault stores reads back, and every byte outside it reads as before (R44, R46). -/
theorem memRead_of_unfaulted (inv : HeapInv s) (run : exec i s = .next t) (clear : i.fault s = none) :
    (∀ k < (i.storedBytes s).length, t.memRead (s.i.toNat + k) = (i.storedBytes s).getD k 0) ∧
      HeapSameOutside s.i.toNat (i.storedBytes s).length s t := by
  obtain ⟨-, -, stored⟩ := completes_of_unfaulted run clear
  obtain nothing | inside := Instr.storedBytes_fit clear
  · rw [nothing] at stored ⊢
    exact ⟨fun k inBlock => absurd inBlock k.not_lt_zero, fun b _ => congrArg (Memory.read · b) stored⟩
  have read : ∀ c, t.memRead c =
      if s.i.toNat ≤ c then (i.storedBytes s).getD (c - s.i.toNat) (s.memRead c) else s.memRead c := fun c => by
    rw [State.memRead, stored, Memory.read_writeBytes inv inside, State.heap_read]
  refine ⟨fun k inBlock => by simp [read, inBlock], fun b outside => ?_⟩
  rw [read]
  split
  · exact List.getD_eq_default _ _ (by omega)
  · rfl

/-- Each decimal digit of a byte fits in a byte (R123). -/
theorem toNat_getD_bcdDigits (b : Byte) :
    ((bcdDigits b).getD 0 0).toNat = b.toNat / 100 ∧ ((bcdDigits b).getD 1 0).toNat = b.toNat / 10 % 10 ∧
      ((bcdDigits b).getD 2 0).toNat = b.toNat % 10 := by
  simp only [bcdDigits, List.getD_cons_zero, List.getD_cons_succ, BitVec.toNat_ofNat]
  omega

/-! ### Glyphs -/

/-- The font, byte by byte, against R189's table. -/
theorem getD_font : ∀ g < 16, ∀ row < 5, Config.font.getD (5 * g + row) 0 = glyphRow g row := by decide

/-- A load that is answered, of an image that fits, has installed it on a cleared heap (R187). -/
theorem eq_install_of_load {image : List Byte} (fits : image.length ≤ Config.maxImage) (run : load image s = .next t) :
    t = s.install image ∧ s.heap = [] := by
  obtain ⟨-, e⟩ | ⟨-, -, e⟩ | ⟨-, inReset, -, e⟩ | ⟨-, -, long, -⟩ := load_cases image s
  · cases e.symm.trans run
  · cases e.symm.trans run
  · exact ⟨Host.Outcome.next.inj (run.symm.trans e), (inResetState_spec inReset).2⟩
  · omega

/-- After a load the font's glyphs stand one after the other from 0x50 on (R187, R189). -/
theorem memRead_glyph {image : List Byte} (fits : image.length ≤ Config.maxImage) (run : load image s = .next t)
    {g row : Nat} (digit : g < 16) (inGlyph : row < 5) : t.memRead (0x50 + 5 * g + row) = glyphRow g row := by
  obtain ⟨rfl, clear⟩ := eq_install_of_load fits run
  rw [memRead_install s image clear fits, if_pos (by omega), Nat.add_assoc, Nat.add_sub_cancel_left]
  exact getD_font g digit row inGlyph

end Sys2Proof
end

section
open Sys2Proof Sys2Proof.Machine

/-- Settles O26: the three differ in the word they write to I, whose value is nnn, a sum modulo 65536, or a glyph address. -/
theorem indexWrites : Obligations.IndexWrites := by
  refine fun nnn x => ⟨?_, ?_, ?_, fun s => ⟨?_, ?_, ?_⟩⟩
  · exact decodes_encodeNat (i := .ldI nnn) rfl
  · exact decodes_of_encodeNat_eq rfl (wordXNN_eq_pattern_add 0xF x 0x1E)
  · exact decodes_of_encodeNat_eq rfl (wordXNN_eq_pattern_add 0xF x 0x29)
  · exact writes_index rfl (toNat_immAddr nnn)
  · exact writes_index rfl (toNat_add_setWidth s.i (s.readV x))
  · exact writes_index rfl (toNat_glyphAddr (s.readV x))

/-- Settles O27: the fault is decided by the address of the last digit, and a run of three digits inside the heap reads back. -/
theorem bcdStoresThreeDigits : Obligations.BcdStoresThreeDigits := by
  refine fun x => ⟨?_, fun s inv => ⟨fun high => ?_, fun fits => ?_⟩⟩
  · exact decodes_of_encodeNat_eq rfl (wordXNN_eq_pattern_add 0xF x 0x33)
  · have info : BitVec.ofNat 16 (s.i.toNat + 2) = s.i + 2 := by simp [BitVec.ofNat_add]
    exact info ▸ latches_of_fault (i := .ldB x) (indexFault_of_exceeds high)
  · have clear : Instr.fault (.ldB x) s = none := indexFault_of_fits fits
    have run := exec_of_unfaulted (i := .ldB x) rfl clear
    obtain ⟨inside, outside⟩ := memRead_of_unfaulted inv run clear
    obtain ⟨hundreds, tens, units⟩ := toNat_getD_bcdDigits (s.readV x)
    refine ⟨_, run, rfl, ?_, ?_, ?_, outside, sameExcept_of_unfaulted run clear (by simp [Instr.parts])⟩
    · exact (congrArg BitVec.toNat (inside 0 (show 0 < 3 by decide))).trans hundreds
    · exact (congrArg BitVec.toNat (inside 1 (show 1 < 3 by decide))).trans tens
    · exact (congrArg BitVec.toNat (inside 2 (show 2 < 3 by decide))).trans units

/-- Settles O28: the fault is decided by the address of the last register, and a run of registers inside the heap reads back. -/
theorem storeRegisterBlock : Obligations.StoreRegisterBlock := by
  refine fun x => ⟨?_, fun s inv => ⟨fun high => ?_, fun fits => ?_⟩⟩
  · exact decodes_of_encodeNat_eq rfl (wordXNN_eq_pattern_add 0xF x 0x55)
  · exact latches_of_fault (i := .ldMemVx x) (indexFault_of_exceeds high)
  · have clear : Instr.fault (.ldMemVx x) s = none := indexFault_of_fits fits
    have run := exec_of_unfaulted (i := .ldMemVx x) rfl clear
    obtain ⟨inside, outside⟩ := memRead_of_unfaulted inv run clear
    rw [Instr.storedBytes, length_regsUpTo] at inside outside
    refine ⟨_, run, pc_bumpIndex _ x, fun r upToX => ?_, outside, toNat_i_bumpIndex _ x,
      sameExcept_of_unfaulted run clear (by simp [Instr.parts])⟩
    rw [inside r (Nat.lt_succ_of_le upToX), getD_regsUpTo, if_pos upToX]

/-- Settles O29: the fault is decided by the address of the last register, and the load takes every register at once. -/
theorem loadRegisterBlock : Obligations.LoadRegisterBlock := by
  refine fun x => ⟨?_, fun s => ⟨fun high => ?_, fun fits => ?_⟩⟩
  · exact decodes_of_encodeNat_eq rfl (wordXNN_eq_pattern_add 0xF x 0x65)
  · exact latches_of_fault (i := .ldVxMem x) (indexFault_of_exceeds high)
  · have clear : Instr.fault (.ldVxMem x) s = none := indexFault_of_fits fits
    have run := exec_of_unfaulted (i := .ldVxMem x) rfl clear
    refine ⟨_, run, pc_bumpIndex _ x, fun r => ?_, toNat_i_bumpIndex _ x,
      sameExcept_of_unfaulted run clear (by simp [Instr.parts])⟩
    rw [State.bumpIndex_eq]
    exact readV_loadRegs s.advance s.i.toNat x r

/-- Settles O43: a load puts R189's table at 0x50, where FX29 on a digit points. -/
theorem fontGlyphIsAddressed : Obligations.FontGlyphIsAddressed := by
  refine ⟨length_font, getD_font, fun image s t u x w _ _ fits run digit point row inGlyph => ?_⟩
  obtain rfl := Host.Outcome.next.inj point
  have address : (glyphAddr w[x]).toNat = 0x50 + 5 * w[x].toNat := toNat_glyphAddr w[x]
  have glyph := memRead_glyph fits run (Nat.lt_succ_of_le digit) inGlyph
  rwa [← address] at glyph

/-- Settles O57: FX65 at the I of the FX55 loads each register from where it was stored. -/
theorem storedRegistersLoadBack : Obligations.StoredRegistersLoadBack := by
  intro s t u x w _ inv fits store load r
  obtain ⟨t', stores, -, stored, -⟩ := ((storeRegisterBlock x).2 s inv).2 fits
  obtain rfl := Host.Outcome.next.inj (store.symm.trans stores)
  obtain ⟨u', loads, -, loaded, -⟩ := ((loadRegisterBlock x).2 ((t.setV w).setI s.i)).2 fits
  obtain rfl := Host.Outcome.next.inj (load.symm.trans loads)
  rw [loaded]
  split
  · exact stored r ‹_›
  · rfl

end

section
/-! What a draw does to the framebuffer and to the collision, pixel by pixel and row by row, and what DRW answers (R135, R136). -/

namespace Sys2Proof.Machine

/-! ### Plotting a set of cells -/

/-- d is c with the cells of `lit` toggled, each once, and a collision recorded if one of them was set (R136). -/
structure Canvas.Plots (lit : Fin 64 → Fin 32 → Prop) (c d : Canvas) : Prop where
  toggled : ∀ cx cy, lit cx cy → d.fb.cell cx cy = !c.fb.cell cx cy
  kept : ∀ cx cy, ¬ lit cx cy → d.fb.cell cx cy = c.fb.cell cx cy
  collides : d.collision = true ↔ c.collision = true ∨ ∃ cx cy, lit cx cy ∧ c.fb.cell cx cy = true

variable {lit later : Fin 64 → Fin 32 → Prop} {c d e : Canvas}

theorem Canvas.plots_nothing (empty : ∀ cx cy, ¬ lit cx cy) (c : Canvas) : c.Plots lit c where
  toggled _ _ h := absurd h (empty _ _)
  kept _ _ _ := rfl
  collides := ⟨.inl, fun h => h.resolve_right fun ⟨_, _, h, _⟩ => empty _ _ h⟩

/-- Plotting two sets that share no cell plots their union: what the second finds in its cells is what was there at first. -/
theorem Canvas.Plots.union (first : c.Plots lit d) (second : d.Plots later e)
    (apart : ∀ cx cy, lit cx cy → ¬ later cx cy) : c.Plots (fun cx cy => lit cx cy ∨ later cx cy) e where
  toggled cx cy h := by
    obtain early | late := h
    · rw [second.kept cx cy (apart cx cy early), first.toggled cx cy early]
    · rw [second.toggled cx cy late, first.kept cx cy fun early => apart cx cy early late]
  kept cx cy h := by
    obtain ⟨notEarly, notLate⟩ := not_or.1 h
    rw [second.kept cx cy notLate, first.kept cx cy notEarly]
  collides := by
    have unseen : ∀ cx cy, later cx cy → d.fb.cell cx cy = c.fb.cell cx cy :=
      fun cx cy late => first.kept cx cy fun early => apart cx cy early late
    have found : (∃ cx cy, later cx cy ∧ d.fb.cell cx cy = true) ↔ ∃ cx cy, later cx cy ∧ c.fb.cell cx cy = true :=
      exists₂_congr fun cx cy => and_congr_right fun late => by rw [unseen cx cy late]
    rw [second.collides, first.collides, found]
    simp only [or_and_right, exists_or, or_assoc]

/-- A fold of plots over 0 to n - 1 whose sets share no cell plots all the sets together. -/
theorem Canvas.plots_foldl_range {plot : Canvas → Nat → Canvas} {lit : Nat → Fin 64 → Fin 32 → Prop} {n : Nat}
    (plots : ∀ (c : Canvas) k, c.Plots (lit k) (plot c k))
    (apart : ∀ j k, j < k → k < n → ∀ cx cy, lit j cx cy → ¬ lit k cx cy) (c : Canvas) :
    c.Plots (fun cx cy => ∃ k < n, lit k cx cy) ((List.range n).foldl plot c) := by
  induction n with
  | zero => exact Canvas.plots_nothing (by simp) c
  | succ n ih =>
    have before := ih fun j k less bound => apart j k less (bound.trans n.lt_succ_self)
    have disjoint : ∀ cx cy, (∃ k < n, lit k cx cy) → ¬ lit n cx cy :=
      fun cx cy ⟨k, less, early⟩ => apart k n less n.lt_succ_self cx cy early
    simp only [List.range_succ, List.foldl_append, List.foldl_cons, List.foldl_nil, Nat.exists_lt_succ_right]
    exact before.union (plots _ n) disjoint

/-! ### A pixel, a row, a sprite -/

variable (vx vy : Byte)

/-- Cell (cx, cy) is the place of pixel `col` of sprite row b, numbered `row`, and the pixel is lit (R136). -/
def PixelLit (row : Nat) (b : Byte) (col : Nat) (cx : Fin 64) (cy : Fin 32) : Prop :=
  b.getLsbD (7 - col) = true ∧ cx.val = (vx.toNat + col) % 64 ∧ cy.val = (vy.toNat + row) % 32

theorem pixelLit_iff (row : Nat) (b : Byte) (col : Nat) (cx : Fin 64) (cy : Fin 32) :
    PixelLit vx vy row b col cx cy ↔ spritePixel b col = true ∧ cx = column vx col ∧ cy = line vy row := by
  rw [Fin.ext_iff, Fin.ext_iff]
  rfl

theorem Canvas.plots_plot (row : Nat) (b : Byte) (c : Canvas) (col : Nat) :
    c.Plots (PixelLit vx vy row b col) (c.plot vx vy row b col) where
  toggled cx cy h := (Canvas.cell_plot ..).trans (if_pos ((pixelLit_iff ..).1 h))
  kept cx cy h := (Canvas.cell_plot ..).trans (if_neg fun place => h ((pixelLit_iff ..).2 place))
  collides := by simp [Canvas.collision_plot, pixelLit_iff, and_assoc]

/-- The eight pixels of a row stand in eight columns, so none is toggled twice. -/
theorem Canvas.plots_plotRow (row : Nat) (b : Byte) (c : Canvas) :
    c.Plots (fun cx cy => ∃ col < 8, PixelLit vx vy row b col cx cy) (c.plotRow vx vy row b) := by
  refine Canvas.plots_foldl_range (Canvas.plots_plot vx vy row b) ?_ c
  rintro j k less bound cx cy ⟨-, atJ, -⟩ ⟨-, atK, -⟩
  omega

/-- Plotting the rows in memory from address a on is a fold over their numbers. -/
theorem Canvas.plotRows_readBytes (m : Memory) (a n : Nat) (c : Canvas) :
    Canvas.plotRows vx vy 0 (m.readBytes a n) c =
      (List.range n).foldl (fun c row => c.plotRow vx vy row (m.read (a + row))) c := by
  induction n with
  | zero => rfl
  | succ n ih =>
    rw [Memory.readBytes_succ, Canvas.plotRows_append, ih, Memory.length_readBytes, Nat.zero_add, List.range_succ,
      List.foldl_append]
    rfl

/-- The rows of a sprite, at most fifteen, stand in as many lines, so a draw toggles the cells of its lit pixels once each. -/
theorem State.plots_drawnCanvas (s : State) (x y n : Nibble) :
    Canvas.Plots (SpriteLit s x y n) { collision := false, fb := s.fb } (s.drawnCanvas x y n) := by
  rw [State.drawnCanvas, Canvas.plotRows_readBytes]
  refine Canvas.plots_foldl_range (fun c row => Canvas.plots_plotRow (s.readV x) (s.readV y) row _ c) ?_ _
  rintro j k less bound cx cy ⟨_, -, -, -, atJ⟩ ⟨_, -, -, -, atK⟩
  omega

/-- VF, written last, reports whether a draw found one of its cells set (R136). -/
theorem readV_setFlag_collision {g : Framebuffer} (plots : Canvas.Plots lit { collision := false, fb := g } c) (s : State) :
    ((∃ cx cy, lit cx cy ∧ g.cell cx cy = true) → (s.setFlag c.collision).readV 0xF = 1) ∧
      ((∀ cx cy, lit cx cy → g.cell cx cy = false) → (s.setFlag c.collision).readV 0xF = 0) := by
  have collides : c.collision = true ↔ ∃ cx cy, lit cx cy ∧ g.cell cx cy = true := by simpa using plots.collides
  have flag : (s.setFlag c.collision).readV 0xF = flagByte c.collision := (readV_writeV ..).trans (if_pos rfl)
  rw [flag]
  refine ⟨fun hit => congrArg flagByte (collides.2 hit), fun dark => congrArg flagByte (Bool.eq_false_iff.2 fun hit => ?_)⟩
  obtain ⟨cx, cy, isLit, set⟩ := collides.1 hit
  exact Bool.false_ne_true ((dark cx cy isLit).symm.trans set)

end Sys2Proof.Machine

namespace Sys2Proof

open Sys2Proof.Machine

/-! ### DRW: its fault, and the cells it draws in -/

variable {s t : State} {x y n : Nibble}

theorem fault_drw_of_exceeds (pos : 0 < n.val) (high : 0xFFF < s.i.toNat + n.val - 1) :
    Instr.fault (.drw x y n) s = some (.heapOutOfRange (s.i.toNat + n.val - 1)) := by
  obtain ⟨k, rows⟩ := Nat.exists_eq_add_one.2 pos
  rw [Instr.fault]
  rw [rows] at high ⊢
  exact indexFault_of_exceeds high

theorem fault_drw_of_fits (fits : n.val = 0 ∨ s.i.toNat + n.val - 1 ≤ 0xFFF) : Instr.fault (.drw x y n) s = none :=
  (indexFault_spec s.i n.val).1.2 (by omega)

/-- The sprite is read from I and the heap and placed by V[x] and V[y]: a state that has these has the same lit cells. -/
theorem spriteLit_congr (index : t.i = s.i) (heap : ∀ a, t.memRead a = s.memRead a) (left : t.readV x = s.readV x)
    (top : t.readV y = s.readV y) (cx : Fin 64) (cy : Fin 32) : SpriteLit t x y n cx cy ↔ SpriteLit s x y n cx cy := by
  simp only [SpriteLit, index, heap, left, top]

end Sys2Proof
end

section
open Sys2Proof Sys2Proof.Machine

/-- Settles O31: the fault is decided by the address of the last row; otherwise the draw toggles each cell of a lit pixel once. -/
theorem drawTogglesSpriteCells : Obligations.DrawTogglesSpriteCells := by
  refine fun x y n => ⟨?_, fun s => ⟨fun pos high => ?_, fun fits => ?_⟩⟩
  · exact decodes_of_encodeNat_eq rfl (wordXYN_eq 0xD x y n)
  · exact latches_of_fault (fault_drw_of_exceeds pos high)
  · have clear : Instr.fault (.drw x y n) s = none := fault_drw_of_fits fits
    have run := exec_of_unfaulted (i := .drw x y n) rfl clear
    have plots := s.plots_drawnCanvas x y n
    obtain ⟨hit, dark⟩ := readV_setFlag_collision plots (s.advance.setFb (s.drawnCanvas x y n).fb)
    exact ⟨_, run, rfl, plots.toggled, plots.kept, hit, dark, exec_regsSameExcept_destRegs run,
      sameExcept_of_unfaulted run clear (by simp [Instr.parts])⟩

/-- Settles O59: the first draw leaves the sprite and its place alone, so the second toggles the same cells again. -/
theorem drawingTwiceErases : Obligations.DrawingTwiceErases := by
  intro s t u x y n _ notVfX notVfY fits first second
  obtain ⟨t', draws, -, toggled, kept, hit, -, regs, frame⟩ := ((drawTogglesSpriteCells x y n).2 s).2 fits
  obtain rfl := Host.Outcome.next.inj (first.symm.trans draws)
  have index : t.i = s.i := frame .index (by decide)
  have same := spriteLit_congr (n := n) index (frame .heap (by decide)) (regs x (by simpa using notVfX))
    (regs y (by simpa using notVfY))
  obtain ⟨u', draws', -, toggled', kept', hit', -⟩ := ((drawTogglesSpriteCells x y n).2 t).2 (index ▸ fits)
  obtain rfl := Host.Outcome.next.inj (second.symm.trans draws')
  refine ⟨fun cx cy => ?_, fun noCollision ⟨cx, cy, isLit⟩ => hit' ⟨cx, cy, (same cx cy).2 isLit, ?_⟩⟩
  · by_cases isLit : SpriteLit s x y n cx cy
    · rw [toggled' cx cy ((same cx cy).2 isLit), toggled cx cy isLit, Bool.not_not]
    · rw [kept' cx cy fun h => isLit ((same cx cy).1 h), kept cx cy isLit]
  · have wasDark : s.fb.cell cx cy = false := Bool.eq_false_iff.2 fun set =>
      absurd (noCollision.symm.trans (hit ⟨cx, cy, isLit, set⟩)) (by decide)
    rw [toggled cx cy isLit, wasDark, Bool.not_false]

/-- Settles O30: the blank framebuffer has every cell dark. -/
theorem clearScreen : Obligations.ClearScreen :=
  ⟨decodes_encodeNat (i := .cls) rfl, fun _ => ⟨_, rfl, Framebuffer.cell_blank, rfl,
    exec_sameExcept_parts (i := .cls) rfl⟩⟩

end

section
/-! What a key skip, a key-wait and the press that ends it answer (R145, R146, R148, R173). -/

namespace Sys2Proof

open Sys2Proof.Machine

variable {s : State} {x k : Nibble} {b : Byte}

/-! ### Key numbers -/

theorem keyFault_of_high (high : 15 < b.toNat) : keyFault b = some (.keyIndexOutOfRange b) :=
  if_neg (Nat.not_le_of_lt high)

theorem keyFault_of_key (key : b.toNat = k.val) : keyFault b = none :=
  (keyFault_spec b).1.2 (by omega)

theorem keyOfByte_of_key (key : b.toNat = k.val) : keyOfByte b = k :=
  Fin.ext ((Nat.mod_eq_of_lt (key ▸ k.isLt)).trans key)

/-- A key number fits in a byte, so the register it is written to holds it (R173). -/
theorem toNat_readV_writeV_key (s : State) (x k : Nibble) :
    ((s.writeV x (BitVec.ofNat 8 k.val)).readV x).toNat = k.val := by
  rw [readV_writeV, if_pos rfl, BitVec.toNat_ofNat]
  exact Nat.mod_eq_of_lt (k.isLt.trans (by decide))

/-! ### SKP and SKNP on a key -/

theorem exec_skp_of_key (key : (s.readV x).toNat = k.val) :
    exec (.skp x) s = .next (s.advance.skipIf (decide (s.keyDown k = true))) := by
  rw [Bool.decide_eq_true, ← keyOfByte_of_key key]
  exact exec_of_unfaulted (i := .skp x) rfl (keyFault_of_key key)

theorem exec_sknp_of_key (key : (s.readV x).toNat = k.val) :
    exec (.sknp x) s = .next (s.advance.skipIf (decide ¬s.keyDown k = true)) := by
  rw [decide_not, Bool.decide_eq_true, ← keyOfByte_of_key key]
  exact exec_of_unfaulted (i := .sknp x) rfl (keyFault_of_key key)

/-! ### The key-wait -/

theorem exec_ldVxK_of_resolved (x : Nibble) (bit : s.keyWaitResolved = true) :
    exec (.ldVxK x) s = .next ((s.setKeyWait s.awaitingKeyRegister false).setPc (s.pc + 2)) := by
  rw [exec, execLdVxK_eq, bit]
  rfl

/-- An unresolved wait records x and does not move PC (R148). -/
theorem exec_ldVxK_of_unresolved (x : Nibble) (bit : s.keyWaitResolved = false) :
    exec (.ldVxK x) s = .next (s.setKeyWait (some x) false) := by
  rw [exec, execLdVxK_eq, bit]
  rfl

theorem step_of_atKeyWait (clear : NoFault s) (here : AtKeyWait x s) : step s = exec (.ldVxK x) s := by
  obtain ⟨fetchable, decoded⟩ := here
  rw [step_eq_exec clear fetchable, decoded]

/-- The step at an FX0A whose wait is over moves on and clears the bit (R148). -/
theorem step_of_resolved (clear : NoFault s) (here : AtKeyWait x s) (bit : s.keyWaitResolved = true) :
    step s = .next ((s.setKeyWait s.awaitingKeyRegister false).setPc (s.pc + 2)) :=
  (step_of_atKeyWait clear here).trans (exec_ldVxK_of_resolved x bit)

/-- The step at an FX0A that still waits leaves the machine there, with x in the latch (R148). -/
theorem step_of_unresolved (clear : NoFault s) (here : AtKeyWait x s) (bit : s.keyWaitResolved = false) :
    step s = .next (s.setKeyWait (some x) false) :=
  (step_of_atKeyWait clear here).trans (exec_ldVxK_of_unresolved x bit)

/-- However long it waits, a machine at an FX0A only gets x in its latch: the state after one step is again at the FX0A and
unresolved, and recording x again changes nothing. -/
theorem performAll_steps_of_unresolved (n : Nat) (clear : NoFault s) (here : AtKeyWait x s)
    (bit : s.keyWaitResolved = false) :
    performAll (List.replicate (n + 1) .step) s = .next (s.setKeyWait (some x) false) := by
  refine performAll_cons.2 ⟨_, step_of_unresolved clear here bit, ?_⟩
  induction n with
  | zero => rfl
  | succ n ih =>
    have again := step_of_unresolved (s := s.setKeyWait (some x) false) clear here rfl
    exact performAll_cons.2 ⟨_, again, ih⟩

/-- A press during a wait is written to the waiting register and resolves the wait; it is not a held key (R173). -/
theorem keyEvent_press_of_waiting (k : Nibble) (clear : NoFault s) (wait : s.awaitingKeyRegister = some x) :
    keyEvent k true s = .next ((s.writeV x (BitVec.ofNat 8 k.val)).setKeyWait none true) := by
  have unlatched : s.faulted = false := clear
  simp [keyEvent, State.keyEventEffect, unlatched, wait]

end Sys2Proof
end

section
open Sys2Proof Sys2Proof.Machine

/-- Settles O35: the wait is stable under steps, the press writes V[x] and resolves it, and the next step runs the same FX0A
once more, now resolved. -/
theorem keyWaitProtocol : Obligations.KeyWaitProtocol := by
  intro x k s n clear here idle unresolved
  have waits := performAll_steps_of_unresolved n clear here unresolved
  have press := keyEvent_press_of_waiting (s := s.setKeyWait (some x) false) k clear rfl
  have value := toNat_readV_writeV_key s x k
  have regs := RegsSameExcept_writeV s x (BitVec.ofNat 8 k.val)
  refine ⟨_, _, _, waits, rfl, rfl, SameExcept.of_setKeyWait s _ _, press, rfl, rfl, value, regs, ?_,
    step_of_resolved clear here rfl, rfl, rfl, rfl, value, regs, ?_⟩
  · simp [sameExcept_iff, Part.same]
  · simp [sameExcept_iff, Part.same, idle, unresolved]

/-- Settles O32: V[x] above 15 is a fault, and a key number is the key tested, SKP on its bit and SKNP on the negation. -/
theorem keySkips : Obligations.KeySkips := by
  refine fun x => ⟨?_, ?_, fun s => ⟨fun high => ⟨?_, ?_⟩, fun k key => ⟨?_, ?_⟩⟩⟩
  · exact decodes_of_encodeNat_eq rfl (wordXNN_eq_pattern_add 0xE x 0x9E)
  · exact decodes_of_encodeNat_eq rfl (wordXNN_eq_pattern_add 0xE x 0xA1)
  · exact latches_of_fault (i := .skp x) (keyFault_of_high high)
  · exact latches_of_fault (i := .sknp x) (keyFault_of_high high)
  · exact skips_if (exec_skp_of_key key)
  · exact skips_unless (exec_sknp_of_key key)

/-- Settles O33: FX07 is a register result, and FX15 and FX18 each write one timer. -/
theorem timerTransfers : Obligations.TimerTransfers := by
  refine fun x => ⟨?_, ?_, ?_, fun s => ⟨writes_result rfl, ?_, ?_⟩⟩
  · exact decodes_of_encodeNat_eq rfl (wordXNN_eq_pattern_add 0xF x 0x07)
  · exact decodes_of_encodeNat_eq rfl (wordXNN_eq_pattern_add 0xF x 0x15)
  · exact decodes_of_encodeNat_eq rfl (wordXNN_eq_pattern_add 0xF x 0x18)
  · exact ⟨_, rfl, rfl, rfl, exec_sameExcept_parts (i := .ldDtVx x) rfl⟩
  · exact ⟨_, rfl, rfl, rfl, exec_sameExcept_parts (i := .ldStVx x) rfl⟩

/-- Settles O34: a resolved wait goes on with the latch as it is, any other records x at the same PC. -/
theorem keyWaitInstruction : Obligations.KeyWaitInstruction := by
  refine fun x => ⟨?_, fun s => ⟨fun resolved => ?_, fun unresolved => ?_⟩⟩
  · exact decodes_of_encodeNat_eq rfl (wordXNN_eq_pattern_add 0xF x 0x0A)
  · have run := exec_ldVxK_of_resolved x resolved
    exact ⟨_, run, rfl, rfl, rfl, exec_sameExcept_parts run⟩
  · exact ⟨_, exec_ldVxK_of_unresolved x unresolved, rfl, rfl, rfl, SameExcept.of_setKeyWait s _ _⟩

end

section
/-! Which steps fault and with what, what no random input can change, and what the host's tick and key event answer (R162, R164,
R165, R171, R173, R175). -/

namespace Sys2Proof

open Sys2Proof.Machine

variable {i : Instr} {s t : State}

/-! ### R162's table -/

/-- R162's table gives an instruction the fault it raises, and no other. -/
theorem instrFaults_iff {cause : BitVec 3} {info : Word} :
    InstrFaults i s cause info ↔ ∃ f, i.fault s = some f ∧ f.code = cause ∧ f.info = info := by
  constructor
  case mpr =>
    rintro ⟨f, raised, rfl, rfl⟩
    exact Instr.instrFaults_of_fault raised
  intro table
  cases i
  case call nnn =>
    obtain ⟨full, rfl, rfl⟩ := table
    exact ⟨.stackOverflow, if_pos full, rfl, rfl⟩
  case ret =>
    obtain ⟨empty, rfl, rfl⟩ := table
    exact ⟨.stackUnderflow, if_pos empty, rfl, rfl⟩
  case drw x y n =>
    obtain ⟨pos, high, rfl, value⟩ := table
    exact ⟨_, fault_drw_of_exceeds pos high, rfl, BitVec.eq_of_toNat_eq value.symm⟩
  case ldB x | ldMemVx x | ldVxMem x =>
    obtain ⟨high, rfl, value⟩ := table
    exact ⟨_, indexFault_of_exceeds high, rfl, BitVec.eq_of_toNat_eq value.symm⟩
  case skp x | sknp x =>
    obtain ⟨high, rfl, value⟩ := table
    refine ⟨_, keyFault_of_high high, rfl, BitVec.eq_of_toNat_eq (Eq.trans ?_ value.symm)⟩
    exact BitVec.toNat_setWidth_of_le (by decide)
  all_goals cases table

/-- The fault a step raises on a machine whose latch is clear: the fetch's, or else the instruction's (R164). -/
def stepFault (s : State) : Option Fault := (fetchFault s.pc).or ((decodeWord s.fetchWord).fault s)

theorem stepFault_of_high_pc (high : 0xFFE < s.pc.toNat) : stepFault s = some (.fetchOutOfRange s.pc) := by
  have out : ¬ s.pc.toNat + 1 < Config.heapSize := Nat.not_lt_of_le (Nat.succ_le_succ high)
  rw [stepFault, fetchFault, if_neg out, Option.some_or]

theorem stepFault_of_fetchable (fetchable : s.pc.toNat ≤ 0xFFE) :
    stepFault s = (decodeWord s.fetchWord).fault s := by
  have room : s.pc.toNat + 1 < Config.heapSize := Nat.succ_lt_succ (Nat.lt_succ_of_le fetchable)
  rw [stepFault, fetchFault, if_pos room, Option.none_or]

/-- R162's table gives a step the fault it raises, and no other. -/
theorem stepFaults_iff {cause : BitVec 3} {info : Word} :
    StepFaults s cause info ↔ ∃ f, stepFault s = some f ∧ f.code = cause ∧ f.info = info := by
  rw [StepFaults, instrFaults_iff]
  obtain fetchable | high := le_or_gt s.pc.toNat 0xFFE
  · have notHigh : ¬ 0xFFE < s.pc.toNat := Nat.not_lt_of_le fetchable
    simp only [stepFault_of_fetchable fetchable, notHigh, fetchable, false_and, false_or, true_and]
  · have notFetchable : ¬ s.pc.toNat ≤ 0xFFE := Nat.not_le_of_lt high
    simp [stepFault_of_high_pc high, high, notFetchable, Fault.code, Fault.info, eq_comm]

/-- A step on a clear latch raises its fault and does nothing else, or leaves the latch clear (R161, R164). -/
theorem step_fault_cases (clear : NoFault s) (h : step s = .next t) :
    (∃ f, stepFault s = some f ∧ t = s.raise f) ∨ (stepFault s = none ∧ NoFault t) := by
  obtain ⟨set, -⟩ | ⟨-, high, rfl⟩ | ⟨-, fetchable, run⟩ := step_cases h
  · cases clear.symm.trans set
  · exact .inl ⟨_, stepFault_of_high_pc high, rfl⟩
  · rw [stepFault_of_fetchable fetchable]
    exact (exec_cases run).imp_right fun ⟨unfaulted, completes⟩ => ⟨unfaulted, completes.latch.1.trans clear⟩

theorem step_of_faulted (set : s.faulted = true) : step s = .next s := if_pos set

/-! ### The random input -/

theorem skipIf_setDraws (s : State) (c : Bool) (n : Nat) : (s.setDraws n).skipIf c = (s.skipIf c).setDraws n := by
  cases c <;> rfl

theorem bumpIndex_setDraws (s : State) (x : Nibble) (n : Nat) :
    (s.setDraws n).bumpIndex x = (s.bumpIndex x).setDraws n := by
  rw [State.bumpIndex_eq, State.bumpIndex_eq]
  rfl

/-- An instruction that uses no random byte neither reads nor moves the draw counter (R175). -/
theorem exec_setDraws (free : i.readsRandom = false) (h : exec i s = .next t) (n : Nat) :
    exec i (s.setDraws n) = .next (t.setDraws n) := by
  cases i
  case rnd => cases free
  case seImm | sneImm | seReg | sneReg =>
    obtain rfl := Host.Outcome.next.inj h
    exact congrArg Host.Outcome.next (skipIf_setDraws s.advance _ n)
  case ldVxK x =>
    obtain rfl := Host.Outcome.next.inj ((execLdVxK_eq x s).symm.trans h)
    exact execLdVxK_eq x _
  case skp | sknp =>
    have mapped := guarded_map (State.setDraws · n) (fun _ => rfl) h
    rw [← skipIf_setDraws] at mapped
    exact mapped
  case ldMemVx | ldVxMem =>
    have mapped := guarded_map (State.setDraws · n) (fun _ => rfl) h
    rw [← bumpIndex_setDraws] at mapped
    exact mapped
  case call | ret | drw | ldB => exact guarded_map (State.setDraws · n) (fun _ => rfl) h
  all_goals
    obtain rfl := Host.Outcome.next.inj h
    rfl

/-! ### Tick and key event -/

theorem toNat_countDown (b : Byte) : (countDown b).toNat = b.toNat - 1 := by
  unfold countDown
  split
  case isTrue zero => rw [zero]; rfl
  case isFalse nonzero =>
    have pos : 1 ≤ b.toNat := Nat.one_le_iff_ne_zero.2 fun h => nonzero (BitVec.eq_of_toNat_eq h)
    exact BitVec.toNat_sub_of_le pos

theorem tick_of_noFault (clear : NoFault s) :
    tick s = .next ((s.setDt (countDown s.dt)).setSt (countDown s.st)) :=
  if_neg (Bool.eq_false_iff.1 clear)

theorem keyEvent_of_noFault (clear : NoFault s) (k : Nibble) (pressed : Bool) :
    keyEvent k pressed s = .next (s.keyEventEffect k pressed) :=
  if_neg (Bool.eq_false_iff.1 clear)

theorem keyEvent_release (clear : NoFault s) (k : Nibble) : keyEvent k false s = .next (s.setKey k false) :=
  keyEvent_of_noFault clear k false

/-- A press with nothing waiting for it is a held key (R173). -/
theorem keyEvent_press_of_idle (clear : NoFault s) (idle : s.awaitingKeyRegister = none) (k : Nibble) :
    keyEvent k true s = .next (s.setKey k true) := by
  rw [keyEvent_of_noFault clear, State.keyEventEffect, idle]
  rfl

end Sys2Proof
end

section
open Sys2Proof Sys2Proof.Machine

/-- Settles O48: a fault leaves the state it was raised on, which must raise it; nothing else sets the latch. -/
theorem stepKeepsLatchTruthful : Obligations.StepKeepsLatchTruthful := fun _ _ => latchInv_step

/-- Settles O10: a step that does not raise its fault leaves the latch clear. -/
theorem faultsArePrecise : Obligations.FaultsArePrecise := by
  intro s t clear run set
  obtain ⟨f, -, rfl⟩ | ⟨-, unset⟩ := step_fault_cases clear run
  · exact ⟨f, latched_raise s f⟩
  · cases unset.symm.trans set

/-- Settles O11: the fault recorded is the one the step raises, which is the one R162's table gives. -/
theorem faultsAreExactlyTheTable : Obligations.FaultsAreExactlyTheTable := by
  intro s t cause info clear run
  rw [stepFaults_iff]
  obtain ⟨f, raised, rfl⟩ | ⟨unfaulted, unset⟩ := step_fault_cases clear run
  · simp [raised]
  · have unset : t.faulted = false := unset
    simp [unfaulted, unset]

/-- Settles O37: a release and an idle press write one key bit, and a press during a wait is written to the waiting register. -/
theorem keyEventCases : Obligations.KeyEventCases := by
  refine fun s k clear => ⟨?_, fun r wait => ?_, fun idle => ?_⟩
  · exact ⟨_, keyEvent_release clear k, fun q => keyDown_setKey s k q false, SameExcept.of_setKeys s _⟩
  · refine ⟨_, keyEvent_press_of_waiting k clear wait, toNat_readV_writeV_key s r k, rfl, rfl,
      RegsSameExcept_writeV s r _, ?_⟩
    simp [sameExcept_iff, Part.same]
  · exact ⟨_, keyEvent_press_of_idle clear idle k, fun q => keyDown_setKey s k q true, SameExcept.of_setKeys s _⟩

/-- Settles O54: every meaning but CXNN's commutes with writing the draw counter. -/
theorem onlyRandomUsesRandomInput : Obligations.OnlyRandomUsesRandomInput := fun _ _ _ n free run =>
  exec_setDraws free run n

/-- Settles O8: the word fetched is the big-endian one of the two bytes at PC. -/
theorem stepOrderOfChecks : Obligations.StepOrderOfChecks := fun s =>
  ⟨step_of_faulted, fun clear high => ⟨_, step_of_high_pc clear high, latched_raise s (.fetchOutOfRange s.pc)⟩,
    fun clear fetchable => ⟨s.fetchWord, toNat_wordOfBytes _ _, step_eq_exec clear fetchable⟩⟩

/-- Settles O12: each of the five operations but reset looks at the latch first, and reset clears it. -/
theorem faultedMachineIsTerminal : Obligations.FaultedMachineIsTerminal := fun _ set =>
  ⟨step_of_faulted set, if_pos set, fun _ _ => if_pos set, fun _ => if_pos set, _, rfl, rfl⟩

/-- Settles O36: the two timers count down apart, and each is written once. -/
theorem tickCountsDown : Obligations.TickCountsDown := by
  refine fun s clear => ⟨_, tick_of_noFault clear, toNat_countDown s.dt, toNat_countDown s.st, ?_⟩
  simp [sameExcept_iff, Part.same]

end

section
/-! What a run of steps does on cleared memory and at a self-jump, and what a load and the boot sequence install (R185, R187 to
R191, R199). -/

namespace Sys2Proof

open Sys2Proof.Machine

variable {s t : State} {image : List Byte}

/-! ### Steps on cleared memory -/

/-- On a cleared heap the word fetched is 0x0000, which is unrecognised (R80, R191). -/
theorem step_of_clearedHeap (clear : NoFault s) (cleared : s.heap = []) (fetchable : s.pc.toNat ≤ 0xFFE) :
    step s = .next s.advance := by
  have zero (a : Nat) : s.memRead a = 0 := congrArg (Memory.read · a) cleared
  have fetched : s.fetchWord = wordOfBytes 0 0 := by rw [State.fetchWord, zero, zero]
  have decoded : decodeWord (wordOfBytes 0 0) = .nop0 0 := by decide
  rw [step_eq_exec clear fetchable, fetched, decoded]
  rfl

/-- A run has a meaning when its first part has one and its last part has one from there (R5). -/
theorem performAll_append {ops rest : List HostOp} :
    performAll (ops ++ rest) s = .next t ↔ ∃ u, performAll ops s = .next u ∧ performAll rest u = .next t := by
  induction ops generalizing s with
  | nil => simp [performAll]
  | cons op ops ih =>
    simp only [List.cons_append, performAll_cons, ih]
    exact ⟨fun ⟨v, first, u, middle, last⟩ => ⟨u, ⟨v, first, middle⟩, last⟩,
      fun ⟨u, ⟨v, first, middle⟩, last⟩ => ⟨v, first, u, middle, last⟩⟩

/-- One step more, at the end of a run of steps. -/
theorem performAll_steps_succ {n : Nat} {u : State} (run : performAll (List.replicate n .step) s = .next u)
    (last : step u = .next t) : performAll (List.replicate (n + 1) .step) s = .next t := by
  rw [List.replicate_succ', performAll_append]
  exact ⟨u, run, performAll_cons.2 ⟨t, last, rfl⟩⟩

/-- From reset alone k steps only move PC, to 2k, as long as the last of them could be fetched (R191). -/
theorem performAll_steps_of_reset (q : Quirks) {k : Nat} (fetchable : k ≤ 2048) :
    performAll (List.replicate k .step) (State.resetWith q) =
      .next ((State.resetWith q).setPc (BitVec.ofNat 16 (2 * k))) := by
  induction k with
  | zero => rfl
  | succ k ih =>
    have pc : (BitVec.ofNat 16 (2 * k)).toNat = 2 * k := Nat.mod_eq_of_lt (by omega)
    have advanced : BitVec.ofNat 16 (2 * (k + 1)) = BitVec.ofNat 16 (2 * k) + 2 := BitVec.ofNat_add (2 * k) 2
    rw [advanced]
    refine performAll_steps_succ (ih (by omega)) (step_of_clearedHeap rfl rfl ?_)
    rw [State.setPc_pc, pc]
    omega

/-! ### A self-jump -/

/-- At a self-jump the word fetched is the one of JP to PC (R82, R199). -/
theorem fetchWord_of_atSelfJump (here : AtSelfJump s) : s.fetchWord = encode (.jp (s.pc.setWidth 12)) := by
  obtain ⟨-, -, -, fetchable, word⟩ := here
  have target : (s.pc.setWidth 12).toNat = s.pc.toNat := Nat.mod_eq_of_lt (by omega)
  refine BitVec.eq_of_toNat_eq ?_
  rw [word, toNat_encode, encodeNat, wordNNN, target]
  omega

/-- A jump to the PC it is executed at changes nothing (R82). -/
theorem exec_jp_of_self {nnn : Addr12} (self : immAddr nnn = s.pc) : exec (.jp nnn) s = .next s :=
  congrArg (fun target => Host.Outcome.next (s.setPc target)) self

/-! ### What an install leaves in the heap -/

/-- The image reads back from 0x200 on: the font lies below it (R187, R189). -/
theorem memRead_install_image (cleared : s.heap = []) (fits : image.length ≤ 3584) (k : Nat) :
    (s.install image).memRead (0x200 + k) = image.getD k 0 := by
  rw [memRead_install s image cleared fits, if_neg (by omega), if_pos (by omega), Nat.add_sub_cancel_left]

theorem memRead_install_font (cleared : s.heap = []) (fits : image.length ≤ 3584) {k : Nat} (inFont : k < 80) :
    (s.install image).memRead (0x050 + k) = Config.font.getD k 0 := by
  rw [memRead_install s image cleared fits, if_pos (by omega), Nat.add_sub_cancel_left]

theorem memRead_install_elsewhere (cleared : s.heap = []) (fits : image.length ≤ 3584) {a : Nat}
    (notImage : ¬ (0x200 ≤ a ∧ a < 0x200 + image.length)) (notFont : ¬ (0x050 ≤ a ∧ a < 0x0A0)) :
    (s.install image).memRead a = 0 := by
  rw [memRead_install s image cleared fits, if_neg notFont]
  split
  · exact List.getD_eq_default _ _ (by omega)
  · rfl

/-! ### Loading -/

/-- What a load answers on a machine whose latch is clear (R187, R188). -/
theorem load_of_noFault (clear : NoFault s) (image : List Byte) :
    load image s =
      if inResetState s then .next (if image.length ≤ 3584 then s.install image else s)
      else .refused .loadOutsideResetState := by
  obtain ⟨set, -⟩ | ⟨-, off, answer⟩ | ⟨-, inReset, fits, answer⟩ | ⟨-, inReset, long, answer⟩ := load_cases image s
  · cases clear.symm.trans set
  · rw [answer, off]
    rfl
  · rw [answer, if_pos inReset, if_pos (show image.length ≤ 3584 from fits)]
  · rw [answer, if_pos inReset, if_neg (show ¬ image.length ≤ 3584 from Nat.not_le_of_lt long)]

theorem load_of_fits (clear : NoFault s) (inReset : inResetState s = true) (fits : image.length ≤ 3584) :
    load image s = .next (s.install image) := by
  rw [load_of_noFault clear, if_pos inReset, if_pos fits]

theorem load_of_long (clear : NoFault s) (inReset : inResetState s = true) (long : 3584 < image.length) :
    load image s = .next s := by
  rw [load_of_noFault clear, if_pos inReset, if_neg (Nat.not_le_of_lt long)]

/-- A second reset changes nothing, so the machine right after a reset is in the reset state (R185, R187). -/
theorem inResetState_hostReset (s : State) : inResetState (hostReset s) = true := decide_eq_true rfl

/-- Boot installs the image on the reset state of the chosen booleans (R190). -/
theorem boot_of_fits (q : Quirks) (s : State) (fits : image.length ≤ 3584) :
    boot q image s = .next (((State.resetWith q).setDraws s.rndDraws).install image) :=
  load_of_fits rfl (inResetState_hostReset { s with quirk := q }) fits

end Sys2Proof
end

section
open Sys2Proof Sys2Proof.Machine

/-- Settles O40: an image that fits is installed on the cleared heap of the reset state, a longer one is not, and off the reset
state there is no load. -/
theorem loadInstallsImageAndFont : Obligations.LoadInstallsImageAndFont := by
  refine fun image s clear => ⟨fun inReset fits => ?_, load_of_long clear, fun off => ?_⟩
  · have cleared := (inResetState_spec inReset).2
    exact ⟨_, load_of_fits clear inReset fits, fun k _ => memRead_install_image cleared fits k,
      fun _ => memRead_install_font cleared fits, fun _ => memRead_install_elsewhere cleared fits, rfl,
      sameExcept_install s image⟩
  · exact (load_of_noFault clear image).trans (if_neg (Bool.eq_false_iff.1 off))

/-- Settles O42: boot is an install on the reset state, which changes PC and the heap only. -/
theorem bootReachesLaunchState : Obligations.BootReachesLaunchState := by
  intro q image s fits
  have frame := sameExcept_install ((State.resetWith q).setDraws s.rndDraws) image
  refine ⟨_, boot_of_fits q s fits, frame .quirk (by decide), rfl, fun k _ => memRead_install_image rfl fits k,
    fun _ => memRead_install_font rfl fits, fun _ => memRead_install_elsewhere rfl fits, ?_⟩
  exact ((SameExcept.of_setDraws (State.resetWith q) s.rndDraws).mono (by decide)).trans (frame.mono (by decide))

/-- Settles O44: every step from reset up to PC = 0xFFE is a no-op, and at PC = 0x1000 the fetch faults. -/
theorem clearedMemoryWalks : Obligations.ClearedMemoryWalks := by
  refine fun q => ⟨fun k fetchable => ?_, ?_⟩
  · exact ⟨_, performAll_steps_of_reset q fetchable, Nat.mod_eq_of_lt (by omega), SameExcept.of_setPc _ _⟩
  · have walk := performAll_steps_of_reset q (le_refl 2048)
    have high : 0xFFE < (BitVec.ofNat 16 (2 * 2048)).toNat := by decide
    have fault := step_of_high_pc (s := (State.resetWith q).setPc (BitVec.ofNat 16 (2 * 2048))) rfl high
    exact ⟨_, performAll_steps_succ walk fault, rfl, rfl, rfl, rfl⟩

/-- Settles O55: the step runs JP to PC itself. -/
theorem selfJumpChangesNothing : Obligations.SelfJumpChangesNothing := by
  intro s here
  have fetched := fetchWord_of_atSelfJump here
  obtain ⟨clear, -, -, fetchable, -⟩ := here
  have self : immAddr (s.pc.setWidth 12) = s.pc :=
    BitVec.eq_of_toNat_eq ((toNat_immAddr _).trans (Nat.mod_eq_of_lt (by omega)))
  rw [step_eq_exec clear fetchable, fetched, decodeWord_encode rfl]
  exact exec_jp_of_self self

/-- Settles O38: the reset operation answers the zeroes of the reset state, whatever the state was. -/
theorem resetClearsAllButQuirks : Obligations.ResetClearsAllButQuirks := fun s =>
  ⟨_, rfl, readV_resetWith s.quirk, rfl, rfl, rfl, stack_resetWith s.quirk, fun _ => rfl, rfl, rfl, Framebuffer.cell_blank,
    keyDown_resetWith s.quirk, rfl, rfl, rfl, rfl⟩

/-- Settles O41: the report and the load decide by the same length. -/
theorem loadRejectsLongImage : Obligations.LoadRejectsLongImage := fun _ long =>
  ⟨if_neg (Nat.not_le_of_lt long), fun _ clear inReset => load_of_long clear inReset long⟩

end
